-- ==== Sys2Proof/Word.lean ====
section
/-! DEFINITION. The word types of the KP1878BE1 (rule R4 of spec/00_scope.md): data byte, instruction word,
program address. -/

namespace Sys2Proof

/-- A data byte: operand, literal, service register, data-stack cell (R4, R6). -/
abbrev Byte := BitVec 8

/-- An instruction word; every instruction is exactly one (R80). -/
abbrev Word := BitVec 16

/-- A program address: it counts instruction words (R25). -/
abbrev PAddr := BitVec 10

/-- The number of a service register, #0..#7 (R21). -/
abbrev SvcReg := Fin 8

end Sys2Proof
end

