-- ==== Sys2Proof/Syntax.lean ====
section
/-! DEFINITION. The instructions: one constructor per row of spec/opcode_table.json (rule R96 of
spec/30_encoding.md), operands in the assembler's order, destination first (R101); and the assembler forms that are
not rows of the table (R102, R103). -/

namespace Sys2Proof

/-- A segment, named by its segment address register SR0..SR3 (R22). -/
inductive Seg where
  | a | b | c | d
deriving DecidableEq, Repr

/-- A data operand `%a0`..`%d7`: a segment and an index in it (R20, R52). -/
structure Operand where
  seg : Seg
  idx : BitVec 3
deriving DecidableEq, Repr

/-- The place bit p: which tetrad of the literal `tconst` occupies (R94). -/
inductive Place where
  | low    -- p = 0
  | high   -- p = 1
deriving DecidableEq, Repr

/-- The 52 instructions. -/
inductive Instr where
  -- two-operand (41_two_operand.md)
  | mov (dst src : Operand)
  | cmp (dst src : Operand)
  | add (dst src : Operand)
  | sub (dst src : Operand)
  | and (dst src : Operand)
  | or (dst src : Operand)
  | xor (dst src : Operand)
  -- literal (42_literal.md)
  | movl (dst : Operand) (const : Byte)
  | cmpl (dst : Operand) (const : Byte)
  | addl (dst : Operand) (sconst : BitVec 5)
  | subl (dst : Operand) (sconst : BitVec 5)
  | bic (dst : Operand) (p : Place) (tconst : BitVec 4)
  | bis (dst : Operand) (p : Place) (tconst : BitVec 4)
  | btg (dst : Operand) (p : Place) (tconst : BitVec 4)
  | btt (dst : Operand) (p : Place) (tconst : BitVec 4)
  -- one-operand (43_one_operand.md)
  | swap (dst : Operand)
  | neg (dst : Operand)
  | not (dst : Operand)
  | shl (dst : Operand)
  | shr (dst : Operand)
  | shra (dst : Operand)
  | rlc (dst : Operand)
  | rrc (dst : Operand)
  | adc (dst : Operand)
  | sbc (dst : Operand)
  -- service and status registers (44_service_registers.md)
  | ldr (n : SvcReg) (const : Byte)
  | mtpr (n : SvcReg) (src : Operand)
  | mfpr (dst : Operand) (n : SvcReg)
  | push (n : SvcReg)
  | pop (n : SvcReg)
  | sst (mask : BitVec 4)
  | cst (mask : BitVec 4)
  | tof
  | tdc
  -- control transfer (45_control_transfer.md)
  | jmp (address : PAddr)
  | jsr (address : PAddr)
  | jnz (address : PAddr)
  | jz (address : PAddr)
  | jns (address : PAddr)
  | js (address : PAddr)
  | jnc (address : PAddr)
  | jc (address : PAddr)
  | ijmp
  | ijsr
  | rts
  | rtsc (c : Bool)
  | rti
  -- special (46_special.md)
  | nop
  | wait
  | stop
  | reset
  | sksp
deriving DecidableEq, Repr

/-- An assembler statement: a row of the table as it stands, or one of the forms of R102 and R103. -/
inductive Asm where
  | core (i : Instr)
  | clr (dst : Operand)
  | inc (dst : Operand)
  | dec (dst : Operand)
  | jeq (address : PAddr)
  | jne (address : PAddr)
  | bicl (dst : Operand) (tconst : BitVec 4)
  | bich (dst : Operand) (tconst : BitVec 4)
  | bisl (dst : Operand) (tconst : BitVec 4)
  | bish (dst : Operand) (tconst : BitVec 4)
  | btgl (dst : Operand) (tconst : BitVec 4)
  | btgh (dst : Operand) (tconst : BitVec 4)
  | bttl (dst : Operand) (tconst : BitVec 4)
  | btth (dst : Operand) (tconst : BitVec 4)
  /-- `LDR #n, value` as written: for #0..#3 the value is the segment's start address (R103). -/
  | ldr (n : SvcReg) (value : Nat)
deriving DecidableEq, Repr

end Sys2Proof
end

