-- ==== Sys2Proof/WellFormed.lean ====
section
/-! DEFINITION. Well-formed terms. Every operand field's range is its type, and operand values are never reserved
(rule R99 of spec/30_encoding.md), so each `Instr` term is well formed; the checks that are left are the assembler's,
on the operand of `LDR #n, value` (R103, decision D31, U16). -/

namespace Sys2Proof

/-- The assembler takes the statement: for `LDR #0..#3` the address is a multiple of 8 and its eighth fits the
8-bit literal; for `LDR #4..#7` the value itself fits it. -/
def Asm.wf : Asm → Bool
  | .ldr n value => if n.val < 4 then value % 8 == 0 && decide (value / 8 < 256) else decide (value < 256)
  | .core _ | .clr _ | .inc _ | .dec _ | .jeq _ | .jne _ | .bicl _ _ | .bich _ _ | .bisl _ _ | .bish _ _
  | .btgl _ _ | .btgh _ _ | .bttl _ _ | .btth _ _ => true

end Sys2Proof
end

