-- ==== Sys2Proof/Decode.lean ====
section
/-! DEFINITION. Decoding a 16-bit word (rules R82 to R99 and R104 of spec/30_encoding.md), the encoder written from
the same table (R96), and the assembler's forms (R102, R103). Field `insn[hi:lo]` is `w.extractLsb' lo (hi - lo + 1)`. -/

namespace Sys2Proof

/-- Why a word spells no instruction (R97, R98, decision D18). -/
inductive DecodeReject where
  | unassigned     -- a word Table 8 gives to no instruction
  | reservedBits   -- a direct jump with bits 11:10 not 00
deriving DecidableEq, Repr

/-- Segment number to segment (R22). -/
def Seg.ofBits (k : BitVec 2) : Seg :=
  match k.toNat with
  | 0 => .a
  | 1 => .b
  | 2 => .c
  | _ => .d

/-- Segment to segment number (R22). -/
def Seg.bits : Seg → BitVec 2
  | .a => 0
  | .b => 1
  | .c => 2
  | .d => 3

/-- The 5-bit operand field: № SR in its bits 4:3, index in 2:0 (R52). -/
def Operand.ofBits (f : BitVec 5) : Operand := ⟨Seg.ofBits (f.extractLsb' 3 2), f.extractLsb' 0 3⟩

/-- The operand field of an operand (R52). -/
def Operand.bits (o : Operand) : BitVec 5 := BitVec.ofNat 5 (o.seg.bits.toNat * 8 + o.idx.toNat)

/-- The place bit (R94). -/
def Place.ofBit (p : Bool) : Place := if p then .high else .low

/-- The place bit (R94). -/
def Place.bit : Place → Nat
  | .low => 0
  | .high => 1

/-- Instruction bits 4:0: the dst operand, or the src of MTPR (R52). -/
def lowOperand (w : Word) : Operand := Operand.ofBits (w.extractLsb' 0 5)

/-- Instruction bits 9:5: the src operand of format F2 (R82). -/
def srcOperand (w : Word) : Operand := Operand.ofBits (w.extractLsb' 5 5)

/-- Instruction bit 9: the place bit of format FL4 (R85). -/
def placeField (w : Word) : Place := Place.ofBit (w.getLsbD 9)

/-- Words 0000h..001Fh: formats F0, FC and FSTK (R89, R92). -/
def decodeControl (w : Word) : Except DecodeReject Instr :=
  match (w.extractLsb' 0 5).toNat with
  | 0x00 => .ok .nop
  | 0x01 => .ok .wait
  | 0x02 => .ok .reset
  | 0x03 => .ok .ijmp
  | 0x04 => .ok .tof
  | 0x05 => .ok .tdc
  | 0x06 => .ok .sksp
  | 0x07 => .ok .ijsr
  | 0x08 => .ok .stop
  | 0x0C => .ok .rts
  | 0x0D => .ok .rti
  | 0x0E => .ok (.rtsc false)
  | 0x0F => .ok (.rtsc true)
  | 0x09 | 0x0A | 0x0B => .error .unassigned
  | k => if k < 0x18 then .ok (.push (w.extractLsb' 0 3).toFin) else .ok (.pop (w.extractLsb' 0 3).toFin)

/-- Words 0000h..01FFh by their bits 8:5: formats F0, FC, FSTK, F1 and FMSK (R86, R90). -/
def decodeOne (w : Word) : Except DecodeReject Instr :=
  match (w.extractLsb' 5 4).toNat with
  | 0 => decodeControl w
  | 1 => .ok (.swap (lowOperand w))
  | 2 => .ok (.neg (lowOperand w))
  | 3 => .ok (.not (lowOperand w))
  | 4 => .ok (.shl (lowOperand w))
  | 5 => .ok (.shr (lowOperand w))
  | 6 => .ok (.shra (lowOperand w))
  | 7 => .ok (.rlc (lowOperand w))
  | 8 => .ok (.rrc (lowOperand w))
  | 9 => .ok (.adc (lowOperand w))
  | 10 => .ok (.sbc (lowOperand w))
  | 12 => if w.getLsbD 4 then .error .unassigned else .ok (.sst (w.extractLsb' 0 4))
  | 14 => if w.getLsbD 4 then .error .unassigned else .ok (.cst (w.extractLsb' 0 4))
  | _ => .error .unassigned

/-- Words 0000h..03FFh by their bits 9:8: the above and format FPR (R88). -/
def decodeShort (w : Word) : Except DecodeReject Instr :=
  match (w.extractLsb' 8 2).toNat with
  | 2 => .ok (.mtpr (w.extractLsb' 5 3).toFin (lowOperand w))
  | 3 => .ok (.mfpr (lowOperand w) (w.extractLsb' 5 3).toFin)
  | _ => decodeOne w

/-- The instruction a word spells, by its bits 15:10 (R96, R104); total. -/
def decode (w : Word) : Except DecodeReject Instr :=
  match (w.extractLsb' 10 6).toNat with
  | 0 => decodeShort w
  | 1 => .ok (.mov (lowOperand w) (srcOperand w))
  | 2 => .ok (.cmp (lowOperand w) (srcOperand w))
  | 3 => .ok (.sub (lowOperand w) (srcOperand w))
  | 4 => .ok (.add (lowOperand w) (srcOperand w))
  | 5 => .ok (.and (lowOperand w) (srcOperand w))
  | 6 => .ok (.or (lowOperand w) (srcOperand w))
  | 7 => .ok (.xor (lowOperand w) (srcOperand w))
  | 8 | 9 => .ok (.ldr (w.extractLsb' 0 3).toFin (w.extractLsb' 3 8))
  | 10 => .ok (.bic (lowOperand w) (placeField w) (w.extractLsb' 5 4))
  | 11 => .ok (.subl (lowOperand w) (w.extractLsb' 5 5))
  | 12 => .ok (.addl (lowOperand w) (w.extractLsb' 5 5))
  | 13 => .ok (.btt (lowOperand w) (placeField w) (w.extractLsb' 5 4))
  | 14 => .ok (.bis (lowOperand w) (placeField w) (w.extractLsb' 5 4))
  | 15 => .ok (.btg (lowOperand w) (placeField w) (w.extractLsb' 5 4))
  | 32 => .ok (.jmp (w.extractLsb' 0 10))
  | 36 => .ok (.jsr (w.extractLsb' 0 10))
  | 40 => .ok (.jz (w.extractLsb' 0 10))
  | 44 => .ok (.jnz (w.extractLsb' 0 10))
  | 48 => .ok (.jns (w.extractLsb' 0 10))
  | 52 => .ok (.js (w.extractLsb' 0 10))
  | 56 => .ok (.jnc (w.extractLsb' 0 10))
  | 60 => .ok (.jc (w.extractLsb' 0 10))
  | k =>
    if k < 24 then .ok (.movl (lowOperand w) (w.extractLsb' 5 8))
    else if k < 32 then .ok (.cmpl (lowOperand w) (w.extractLsb' 5 8))
    else .error .reservedBits

/-- The instruction my decoder reads from a table row's word (the host's numbering of bits is the spec's, R5; bits
above `nbits` are 0). -/
def decodeTableWord (nbits w : Nat) : Option Instr :=
  match decode (BitVec.ofNat 16 (w % 2 ^ nbits)) with
  | .ok i => some i
  | .error _ => none

/-- `base + dst`: format F1 (R86). -/
def encodeF1 (base : Nat) (dst : Operand) : Word := BitVec.ofNat 16 (base + dst.bits.toNat)

/-- `base + src * 32 + dst`: format F2 (R82). -/
def encodeF2 (base : Nat) (dst src : Operand) : Word :=
  BitVec.ofNat 16 (base + src.bits.toNat * 32 + dst.bits.toNat)

/-- `base + const * 32 + dst`: formats FL8 and FL5 (R83, R84), and FPR with n as the constant (R88). -/
def encodeFL (base : Nat) (dst : Operand) (const : Nat) : Word :=
  BitVec.ofNat 16 (base + const * 32 + dst.bits.toNat)

/-- `base + p * 512 + tconst * 32 + dst`: format FL4 (R85). -/
def encodeFL4 (base : Nat) (dst : Operand) (p : Place) (tconst : BitVec 4) : Word :=
  BitVec.ofNat 16 (base + p.bit * 512 + tconst.toNat * 32 + dst.bits.toNat)

/-- `base + field`: formats FC, FSTK, FMSK and FJ (R89 to R92). -/
def encodeLow (base field : Nat) : Word := BitVec.ofNat 16 (base + field)

/-- The word of an instruction, from the match column of R96. -/
def encode : Instr → Word
  | .mov d s => encodeF2 0x0400 d s
  | .cmp d s => encodeF2 0x0800 d s
  | .sub d s => encodeF2 0x0C00 d s
  | .add d s => encodeF2 0x1000 d s
  | .and d s => encodeF2 0x1400 d s
  | .or d s => encodeF2 0x1800 d s
  | .xor d s => encodeF2 0x1C00 d s
  | .movl d k => encodeFL 0x4000 d k.toNat
  | .cmpl d k => encodeFL 0x6000 d k.toNat
  | .addl d k => encodeFL 0x3000 d k.toNat
  | .subl d k => encodeFL 0x2C00 d k.toNat
  | .bic d p t => encodeFL4 0x2800 d p t
  | .bis d p t => encodeFL4 0x3800 d p t
  | .btg d p t => encodeFL4 0x3C00 d p t
  | .btt d p t => encodeFL4 0x3400 d p t
  | .swap d => encodeF1 0x0020 d
  | .neg d => encodeF1 0x0040 d
  | .not d => encodeF1 0x0060 d
  | .shl d => encodeF1 0x0080 d
  | .shr d => encodeF1 0x00A0 d
  | .shra d => encodeF1 0x00C0 d
  | .rlc d => encodeF1 0x00E0 d
  | .rrc d => encodeF1 0x0100 d
  | .adc d => encodeF1 0x0120 d
  | .sbc d => encodeF1 0x0140 d
  | .ldr n k => encodeLow 0x2000 (k.toNat * 8 + n.val)
  | .mtpr n s => encodeFL 0x0200 s n.val
  | .mfpr d n => encodeFL 0x0300 d n.val
  | .push n => encodeLow 0x0010 n.val
  | .pop n => encodeLow 0x0018 n.val
  | .sst m => encodeLow 0x0180 m.toNat
  | .cst m => encodeLow 0x01C0 m.toNat
  | .tof => 0x0004
  | .tdc => 0x0005
  | .jmp a => encodeLow 0x8000 a.toNat
  | .jsr a => encodeLow 0x9000 a.toNat
  | .jnz a => encodeLow 0xB000 a.toNat
  | .jz a => encodeLow 0xA000 a.toNat
  | .jns a => encodeLow 0xC000 a.toNat
  | .js a => encodeLow 0xD000 a.toNat
  | .jnc a => encodeLow 0xE000 a.toNat
  | .jc a => encodeLow 0xF000 a.toNat
  | .ijmp => 0x0003
  | .ijsr => 0x0007
  | .rts => 0x000C
  | .rtsc c => encodeLow 0x000E c.toNat
  | .rti => 0x000D
  | .nop => 0x0000
  | .wait => 0x0001
  | .stop => 0x0008
  | .reset => 0x0002
  | .sksp => 0x0006

/-- The row of R96 an instruction belongs to: its match and mask columns. -/
def Instr.row : Instr → Word × Word
  | .mov _ _ => (0x0400, 0xFC00)
  | .cmp _ _ => (0x0800, 0xFC00)
  | .sub _ _ => (0x0C00, 0xFC00)
  | .add _ _ => (0x1000, 0xFC00)
  | .and _ _ => (0x1400, 0xFC00)
  | .or _ _ => (0x1800, 0xFC00)
  | .xor _ _ => (0x1C00, 0xFC00)
  | .movl _ _ => (0x4000, 0xE000)
  | .cmpl _ _ => (0x6000, 0xE000)
  | .addl _ _ => (0x3000, 0xFC00)
  | .subl _ _ => (0x2C00, 0xFC00)
  | .bic _ _ _ => (0x2800, 0xFC00)
  | .bis _ _ _ => (0x3800, 0xFC00)
  | .btg _ _ _ => (0x3C00, 0xFC00)
  | .btt _ _ _ => (0x3400, 0xFC00)
  | .swap _ => (0x0020, 0xFFE0)
  | .neg _ => (0x0040, 0xFFE0)
  | .not _ => (0x0060, 0xFFE0)
  | .shl _ => (0x0080, 0xFFE0)
  | .shr _ => (0x00A0, 0xFFE0)
  | .shra _ => (0x00C0, 0xFFE0)
  | .rlc _ => (0x00E0, 0xFFE0)
  | .rrc _ => (0x0100, 0xFFE0)
  | .adc _ => (0x0120, 0xFFE0)
  | .sbc _ => (0x0140, 0xFFE0)
  | .ldr _ _ => (0x2000, 0xF800)
  | .mtpr _ _ => (0x0200, 0xFF00)
  | .mfpr _ _ => (0x0300, 0xFF00)
  | .push _ => (0x0010, 0xFFF8)
  | .pop _ => (0x0018, 0xFFF8)
  | .sst _ => (0x0180, 0xFFF0)
  | .cst _ => (0x01C0, 0xFFF0)
  | .tof => (0x0004, 0xFFFF)
  | .tdc => (0x0005, 0xFFFF)
  | .jmp _ => (0x8000, 0xFC00)
  | .jsr _ => (0x9000, 0xFC00)
  | .jnz _ => (0xB000, 0xFC00)
  | .jz _ => (0xA000, 0xFC00)
  | .jns _ => (0xC000, 0xFC00)
  | .js _ => (0xD000, 0xFC00)
  | .jnc _ => (0xE000, 0xFC00)
  | .jc _ => (0xF000, 0xFC00)
  | .ijmp => (0x0003, 0xFFFF)
  | .ijsr => (0x0007, 0xFFFF)
  | .rts => (0x000C, 0xFFFF)
  | .rtsc _ => (0x000E, 0xFFFE)
  | .rti => (0x000D, 0xFFFF)
  | .nop => (0x0000, 0xFFFF)
  | .wait => (0x0001, 0xFFFF)
  | .stop => (0x0008, 0xFFFF)
  | .reset => (0x0002, 0xFFFF)
  | .sksp => (0x0006, 0xFFFF)

/-- The instruction an assembler statement stands for, for statements the assembler takes (R102, R103). -/
def Asm.assemble (x : Asm) : Option Instr :=
  if x.wf then
    some (match x with
      | .core i => i
      | .clr d => .movl d 0
      | .inc d => .addl d 1
      | .dec d => .subl d 1
      | .jeq a => .jz a
      | .jne a => .jnz a
      | .bicl d t => .bic d .low t
      | .bich d t => .bic d .high t
      | .bisl d t => .bis d .low t
      | .bish d t => .bis d .high t
      | .btgl d t => .btg d .low t
      | .btgh d t => .btg d .high t
      | .bttl d t => .btt d .low t
      | .btth d t => .btt d .high t
      | .ldr n v => .ldr n (BitVec.ofNat 8 (if n.val < 4 then v / 8 else v)))
  else none

end Sys2Proof
end

