-- ==== Sys2Proof/Config.lean ====
section
/-! DEFINITION. What the spec leaves open. `Platform` holds the parameters of rule R4 that the spec asks a model to
take as an argument (plain data, carried by State, so that a claim about every state is a claim about every platform).
The opaque constants are the free values: nothing can evaluate them or prove a value of them. -/

namespace Sys2Proof

/-- What a data address is: R9, R36, parameter `DataMap` (decision D5). -/
inductive CellKind where
  | ram      -- data RAM
  | device   -- a peripheral register
  | absent   -- not defined by the map (R68)
deriving DecidableEq, Repr

/-- One stretch of the data map. -/
structure DataRegion where
  base : Nat
  size : Nat
  kind : CellKind
deriving DecidableEq, Repr

/-- An interrupt source (R241): the stack-error request, or a source outside the core by its number
(parameter `IntSources`, decision D13). -/
inductive IntSource where
  | stackError
  | external (n : Nat)
deriving DecidableEq, Repr

/-- How a subtraction sets OF (parameter `OF_SUB_RULE`, decision D10, conflict C3). -/
inductive OfSubRule where
  | signedOverflow   -- the prose: the signed difference does not fit
  | addStyle         -- the source's SUB example: bit 7 of (a xor r) and (b xor r)
deriving DecidableEq, Repr

/-- The open parameters of rule R4 (decisions D3, D4, D5, D6, D10, D12, D13). No step changes them. -/
structure Platform where
  /-- `DADDR_BITS`, at most 11 (R53). -/
  daddrBits : Nat
  /-- `SR_MASK[n]`: the implemented bits of service register #n (R21). -/
  srMask    : Vector Byte 8
  /-- `DataMap`: the first region that covers an address decides; an address no region covers is RAM. -/
  dataMap   : List DataRegion
  /-- `PMEM_WORDS`, at most 1024 (R60, R68). -/
  pmemWords : Nat
  /-- `Vector(source)` where the platform gives it (R252); any other source enters at `Config.vector`. -/
  vectors   : List (IntSource × PAddr)
  /-- The sources that RS.IE does not gate (R243, R244); whether the stack error is one is open (R246). -/
  ungated   : List IntSource
  /-- `OF_SUB_RULE` (R13, R296). -/
  ofSubRule : OfSubRule
deriving DecidableEq, Repr

/-- What the environment supplies at one instruction boundary (R34, R242, R260): the external sources pending and
individually enabled there, and the source it lets in there, if any. -/
structure Boundary where
  pending : List Nat
  accept  : Option IntSource
deriving DecidableEq, Repr

/-- Which operand of its instruction a data-space access serves. -/
inductive Role where
  | src
  | dst
deriving DecidableEq, Repr

/-- The values one step may have to draw where the spec states none. Each is free: `Config.free` has no body. -/
structure FreeValues where
  /-- ISP after a failing push or pop (U6), or after RESET at a handler's first address (R288). -/
  isp       : Fin 8
  /-- DSP in the same cases. -/
  dsp       : Fin 16
  /-- The command-stack cell a failing push may have written (U6). -/
  retCell   : PAddr
  /-- The data-stack cell a failing push may have written (U6). -/
  dataCell  : Byte
  /-- What a failing return loads into pc (U6). -/
  retAddr   : PAddr
  /-- What a failing pop leaves in its register (U6). -/
  popped    : Byte
  /-- Whether a failing call still jumps (U6). -/
  jumps     : Bool
  /-- RS bits 7:6 as interrupt entry saves them (R28, decision D9). -/
  rsHi      : BitVec 2
  /-- Whether src is read before dst when both are peripheral registers (R58, decision D17). -/
  srcFirst  : Bool
  /-- Whether one peripheral register that is both src and dst is read once (R58: "once or twice"). -/
  readsOnce : Bool
  /-- Which of the sources that end WAIT or STOP is entered, where the environment names none (R242). -/
  pick      : Nat
deriving DecidableEq, Repr, Inhabited

/-- The free values of the step with the given tick. -/
opaque Config.free : Nat → FreeValues

/-- What a peripheral register answers to a read (R9, R59): by tick, the operand read, and address. -/
opaque Config.deviceRead : Nat → Role → Nat → Byte

/-- What a RAM byte holds before anything has written it, by address (R40: unspecified). -/
opaque Config.powerOnRam : Nat → Byte

/-- The data address an operand field names once some of #4..#7 has been loaded (R23, `SvcMeaning`, decision D7):
by tick, the service registers, the operand's role, and the 5-bit field. -/
opaque Config.indirectAddress : Nat → Vector Byte 8 → Role → BitVec 5 → BitVec 11

/-- `IR1_value(sr)`: the low 10 bits of IR1 (R24, decision D7). -/
opaque Config.ir1Value : Vector Byte 8 → PAddr

/-- `Vector(source)` where the platform does not give it (R252, decision D12). -/
opaque Config.vector : IntSource → PAddr

/-- What the unimplemented bits of a service register read as (R173), by tick and register. -/
opaque Config.svcUnimplemented : Nat → SvcReg → Byte

end Sys2Proof
end

