-- ==== Sys2Proof/Machine/State.lean ====
section
/-! DEFINITION. The state of the machine (INVENTORY.md, State), why a step stops, and the state after reset
(rule R40 of spec/10_state.md). Plain data only. -/

namespace Sys2Proof.Machine

/-- A sparse memory of w-bit cells, addresses strictly rising; an unlisted address has never been written. -/
abbrev Memory (w : Nat) := List (Nat × BitVec w)

/-- The run state (R33). -/
inductive RunState where
  | running
  | waiting   -- after WAIT
  | stopped   -- after STOP
deriving DecidableEq, Repr

/-- An access to a peripheral register, as the device sees it (R57, R59). -/
inductive BusEvent where
  | read (addr : Nat)
  | write (addr : Nat) (value : Byte)
deriving DecidableEq, Repr

/-- The state: the hardware's own, the platform's parameters, the environment's input, and four fields of the model. -/
structure State where
  /-- Program counter: the address of the instruction being executed (R25). -/
  pc       : PAddr
  /-- Status register RS (R26). -/
  rs       : Byte
  /-- Service registers #0..#7; #0..#3 are SR0..SR3 (R21, R22). -/
  sr       : Vector Byte 8
  /-- Command stack (R30). -/
  istack   : Vector PAddr 8
  /-- Command stack pointer ISP (R30). -/
  isp      : Fin 8
  /-- Data stack (R31). -/
  dstack   : Vector Byte 16
  /-- Data stack pointer DSP (R31). -/
  dsp      : Fin 16
  /-- Stack-error interrupt request (R32). -/
  stackErr : Bool
  /-- Run state (R33). -/
  run      : RunState
  /-- Data RAM by data address (R36). -/
  mem      : Memory 8
  /-- Program text by program address (R35). -/
  pmem     : Memory 16
  /-- The open parameters (R4, R37); log entry 2. -/
  platform : Platform
  /-- The environment's input, one entry per coming boundary; past its end nothing is pending (R34); log entry 12. -/
  env      : List Boundary
  /-- Device accesses so far, oldest first (R57, R59); log entry 5. -/
  bus      : List BusEvent
  /-- The model's own: some of #4..#7 has been written (R23); log entry 7. -/
  indirectLoaded : Bool
  /-- The model's own: the addresses at which a handler has been entered, no repeats (R288); log entry 15. -/
  handlers : List PAddr
  /-- The model's own: the number of steps taken, which indexes the free values; log entry 21. -/
  tick     : Nat
deriving DecidableEq, Repr

/-- Why the machine faults. -/
inductive Fault where
  /-- Raised by fetch where no program word has been loaded at pc (log entry 4). Safe: hardware would run whatever
  the cell holds. -/
  | programWordNotLoaded
deriving DecidableEq, Repr

/-- Why the model has no meaning for a step. -/
inductive Refusal where
  /-- Raised by exec for an instruction without a meaning; none is left. Safe. -/
  | notModelled (mnemonic : String)
  /-- Raised by fetch on a word Table 8 gives to no instruction (R97, D18). Safe. -/
  | unassignedWord
  /-- Raised by fetch on a direct jump with bits 11:10 not 00 (R98, D18). Safe. -/
  | reservedJumpBits
  /-- Raised by fetch at an address at or above PMEM_WORDS (R68, D6). Safe. -/
  | fetchOutsideProgramMemory
  /-- Raised by an operand access to an address DataMap does not define (R68, D5). Safe. -/
  | undefinedDataAddress
deriving DecidableEq, Repr

/-- What one step or one meaning answers. -/
abbrev Result := Host.Outcome State Fault Refusal

/-- The platform of the reset state (log entry 2): SR_MASK and OF_SUB_RULE as the defaults of
decisions D4 and D10, the rest DESIGN CHOICE. -/
def Platform.atReset : Platform where
  daddrBits := 11
  srMask    := Vector.replicate 8 0xFF
  dataMap   := []
  pmemWords := 1024
  vectors   := []
  ungated   := []
  ofSubRule := .signedOverflow

/-- After hardware reset: ISP = 0, DSP = 0, no stack-error request, running (R40, D20); every other register at the
value of log entry 1; both memories with nothing listed (log entries 3 and 4). -/
def State.reset : State where
  pc       := 0
  rs       := 0
  sr       := Vector.replicate 8 0
  istack   := Vector.replicate 8 0
  isp      := 0
  dstack   := Vector.replicate 16 0
  dsp      := 0
  stackErr := false
  run      := .running
  mem      := []
  pmem     := []
  platform := Platform.atReset
  env      := []
  bus      := []
  indirectLoaded := false
  handlers := []
  tick     := 0

end Sys2Proof.Machine
end

