-- ==== Sys2Proof/Machine/Flags.lean ====
section
/-! DEFINITION. The status register RS and every flag computation (rules R12 to R15 of spec/00_scope.md, R26 and R27
of spec/10_state.md). -/

namespace Sys2Proof.Machine

/-- The five condition flags: C = RS[0], Z = RS[1], S = RS[2], OF = RS[4], DC = RS[5] (R26). -/
structure Flags where
  carry    : Bool
  zero     : Bool
  sign     : Bool
  overflow : Bool
  digit    : Bool
deriving DecidableEq, Repr

/-- A result and the flags it leaves. -/
structure Alu where
  value : Byte
  flags : Flags
deriving DecidableEq, Repr

/-- Bit i of a byte set to b. -/
def putBit (v : Byte) (i : Nat) (b : Bool) : Byte :=
  if b then v ||| (1#8 <<< i) else v &&& ~~~(1#8 <<< i)

/-- The condition flags of an RS value (R26). -/
def flagsOf (rs : Byte) : Flags where
  carry    := rs.getLsbD 0
  zero     := rs.getLsbD 1
  sign     := rs.getLsbD 2
  overflow := rs.getLsbD 4
  digit    := rs.getLsbD 5

/-- An RS value with its condition flags replaced; IE and bits 7:6 stay (R14). -/
def withFlags (rs : Byte) (f : Flags) : Byte :=
  putBit (putBit (putBit (putBit (putBit rs 0 f.carry) 1 f.zero) 2 f.sign) 4 f.overflow) 5 f.digit

/-- RS.IE (R26). -/
def ieOf (rs : Byte) : Bool := rs.getLsbD 3

/-- RS.IE replaced. -/
def withIe (rs : Byte) (b : Bool) : Byte := putBit rs 3 b

/-- A result with Z and S from it (R14) and the other flags as given. -/
def aluResult (r : Byte) (carry overflow digit : Bool) : Alu where
  value := r
  flags := { carry, zero := r == 0#8, sign := r.getLsbD 7, overflow, digit }

/-- add8 (R12): C the carry out of bit 7, DC out of bit 3, OF the signed overflow. -/
def add8 (a b : Byte) (cin : Bool) : Alu :=
  let sum := a.toNat + b.toNat + cin.toNat
  let r := BitVec.ofNat 8 sum
  aluResult r (decide (256 ≤ sum))
    (a.getLsbD 7 == b.getLsbD 7 && r.getLsbD 7 != a.getLsbD 7)
    (decide (16 ≤ a.toNat % 16 + b.toNat % 16 + cin.toNat))

/-- OF after r = a - b - bin (R13): the signed overflow, or as the source's SUB example has it (C3, D10, U7; log
entry 17). -/
def subOverflow (rule : OfSubRule) (a b r : Byte) : Bool :=
  match rule with
  | .signedOverflow => a.getLsbD 7 != b.getLsbD 7 && r.getLsbD 7 != a.getLsbD 7
  | .addStyle => a.getLsbD 7 != r.getLsbD 7 && b.getLsbD 7 != r.getLsbD 7

/-- sub8 (R13): C the borrow, DC the borrow out of the low tetrad, OF by the platform's `OF_SUB_RULE`. -/
def sub8 (rule : OfSubRule) (a b : Byte) (bin : Bool) : Alu :=
  let d : Int := (a.toNat : Int) - b.toNat - bin.toNat
  let r := BitVec.ofInt 8 d
  aluResult r (decide (d < 0)) (subOverflow rule a b r)
    (decide ((a.toNat % 16 : Int) - b.toNat % 16 - bin.toNat < 0))

/-- A logical result: Z and S from it, C, OF and DC cleared (R27, row AND to SWAP). -/
def logic8 (r : Byte) : Alu := aluResult r false false false

/-- A moved result: Z and S from it, OF cleared, C and DC kept (R27, row MOV, MOVL, NOT). -/
def move8 (old : Flags) (r : Byte) : Alu := aluResult r old.carry false old.digit

/-- The literal of format FL4: tconst in the tetrad p names, the other tetrad 0 (R94). -/
def tetradLiteral (p : Place) (t : BitVec 4) : Byte :=
  match p with
  | .low => 0#4 ++ t
  | .high => t ++ 0#4

/-- The literal of format FL5 extended with zeros (R94). -/
def shortLiteral (k : BitVec 5) : Byte := k.setWidth 8

/-- SWAP: the tetrads exchanged (R151). -/
def swapTetrads (v : Byte) : Byte := v.extractLsb' 0 4 ++ v.extractLsb' 4 4

/-- SHL and RLC: one place left, the bit entering at the bottom given; C the old bit 7, OF whether the sign changed,
DC cleared (R154, R157, D11). -/
def shiftLeft8 (v : Byte) (inBit : Bool) : Alu :=
  aluResult (putBit (v <<< 1) 0 inBit) (v.getLsbD 7) (v.getLsbD 7 ^^ v.getLsbD 6) false

/-- SHR, SHRA and RRC: one place right, the bit entering at the top given; C the old bit 0, OF and DC cleared
(R155, R156, R158). -/
def shiftRight8 (v : Byte) (inBit : Bool) : Alu :=
  aluResult (putBit (v >>> 1) 7 inBit) (v.getLsbD 0) false false

end Sys2Proof.Machine
end

