-- ==== Sys2Proof/Machine/Ops.lean ====
section
/-! DEFINITION. The named operations over registers, memories and stacks; taking an interrupt and returning from one;
fetching. Rules R9 to R11 of spec/00_scope.md, R244 of spec/60_exceptions.md. -/

namespace Sys2Proof.Machine

/-! ## Sparse memories -/

/-- The cell at an address; none where nothing has been written. -/
def Memory.read {w : Nat} : Memory w → Nat → Option (BitVec w)
  | [], _ => none
  | (k, v) :: m, a => if k = a then some v else Memory.read m a

/-- One cell written, in rising order of address. -/
def Memory.write {w : Nat} : Memory w → Nat → BitVec w → Memory w
  | [], a, v => [(a, v)]
  | (k, x) :: m, a, v =>
    if a < k then (a, v) :: (k, x) :: m
    else if a = k then (a, v) :: m
    else (k, x) :: Memory.write m a v

/-- The canonical form: addresses strictly rising. -/
def Memory.wf {w : Nat} : Memory w → Bool
  | [] => true
  | [_] => true
  | (a, _) :: (b, y) :: m => decide (a < b) && Memory.wf ((b, y) :: m)

/-! ## Program counter and status register -/

/-- The free values of the step being taken. -/
def State.free (s : State) : FreeValues := Config.free s.tick

/-- `next` (R10): pc to the following word, modulo 1024. -/
def State.advance (s : State) : State := { s with pc := s.pc + 1 }

/-- `pc <- a` (R10). -/
def State.setPc (s : State) (a : PAddr) : State := { s with pc := a }

/-- RS written whole. -/
def State.setRs (s : State) (v : Byte) : State := { s with rs := v }

/-- The condition flags. -/
def State.flags (s : State) : Flags := flagsOf s.rs

/-- The condition flags written; IE and RS[7:6] stay (R14). -/
def State.setFlags (s : State) (f : Flags) : State := s.setRs (withFlags s.rs f)

/-- RS.IE (R243). -/
def State.ie (s : State) : Bool := ieOf s.rs

/-! ## Service registers -/

/-- Service register #n as MFPR and PUSH read it; unimplemented bits read as a free value (R173, D4). -/
def State.readSr (s : State) (n : SvcReg) : Byte :=
  let mask := s.platform.srMask.get n
  if mask = 0xFF#8 then s.sr.get n
  else (s.sr.get n &&& mask) ||| (Config.svcUnimplemented s.tick n &&& ~~~mask)

/-- Service register #n written: its implemented bits are kept (R21). Writing one of #4..#7 leaves operand
addressing to `SvcMeaning` (R23; log entry 7). -/
def State.writeSr (s : State) (n : SvcReg) (v : Byte) : State :=
  { s with
    sr := s.sr.set n.val (v &&& s.platform.srMask.get n) n.isLt
    indirectLoaded := s.indirectLoaded || decide (4 ≤ n.val) }

/-- IR1[9:0] (R24). -/
def State.ir1 (s : State) : PAddr := Config.ir1Value s.sr

/-! ## The stacks (R11)

At the limit an access raises the stack error: the request is latched (R32) and what the access does to its pointer,
cell and result is free (U6; log entry 9). -/

/-- `ipush` (R11). -/
def State.ipush (s : State) (a : PAddr) : State :=
  if s.isp = 7 then
    { s with stackErr := true, isp := s.free.isp, istack := s.istack.set s.isp.val s.free.retCell s.isp.isLt }
  else
    { s with isp := s.isp + 1, istack := s.istack.set s.isp.val a s.isp.isLt }

/-- `ipop` (R11): the address popped and the state after. -/
def State.ipop (s : State) : PAddr × State :=
  if s.isp = 0 then (s.free.retAddr, { s with stackErr := true, isp := s.free.isp })
  else (s.istack.get (s.isp - 1), { s with isp := s.isp - 1 })

/-- `dpush` (R11). -/
def State.dpush (s : State) (v : Byte) : State :=
  if s.dsp = 15 then
    { s with stackErr := true, dsp := s.free.dsp, dstack := s.dstack.set s.dsp.val s.free.dataCell s.dsp.isLt }
  else
    { s with dsp := s.dsp + 1, dstack := s.dstack.set s.dsp.val v s.dsp.isLt }

/-- `dpop` (R11): the byte popped and the state after. -/
def State.dpop (s : State) : Byte × State :=
  if s.dsp = 0 then (s.free.popped, { s with stackErr := true, dsp := s.free.dsp })
  else (s.dstack.get (s.dsp - 1), { s with dsp := s.dsp - 1 })

/-- A call to `target`: the address of the next instruction pushed, then pc (R192, R200). Whether a call that
overflows the command stack still jumps is free (U6). -/
def State.call (s : State) (target : PAddr) : State :=
  (s.ipush (s.pc + 1)).setPc (if s.isp = 7 && !s.free.jumps then s.pc + 1 else target)

/-- A conditional jump (R190): to `a` when the condition holds, else `next`. -/
def State.branchIf (s : State) (cond : Bool) (a : PAddr) : State := if cond then s.setPc a else s.advance

/-! ## Interrupts -/

/-- `Vector(source)` (R252): the platform's where it gives one. -/
def State.vector (s : State) (src : IntSource) : PAddr :=
  match s.platform.vectors.lookup src with
  | some a => a
  | none => Config.vector src

/-- A source is pending at this boundary: the latch for the stack error (R32), the environment's set for the others
(R34). -/
def State.isPending (s : State) : IntSource → Bool
  | .stackError => s.stackErr
  | .external n =>
    match s.env with
    | [] => false
    | b :: _ => b.pending.contains n

/-- RS.IE lets the source in, or does not gate it (R243, R244). -/
def State.isEnabled (s : State) (src : IntSource) : Bool := s.ie || s.platform.ungated.contains src

/-- The external sources pending at this boundary (R34). -/
def State.pendingExternal (s : State) : List IntSource :=
  match s.env with
  | [] => []
  | b :: _ => b.pending.map .external

/-- The sources that are pending and enabled at this boundary (R260 (b)). -/
def State.candidates (s : State) : List IntSource :=
  (IntSource.stackError :: s.pendingExternal).filter (fun src => s.isPending src && s.isEnabled src)

/-- The source the environment lets in at this boundary, if it is pending and enabled (R244). -/
def State.offered (s : State) : Option IntSource :=
  match s.env with
  | [] => none
  | b :: _ =>
    match b.accept with
    | none => none
    | some src => if s.isPending src && s.isEnabled src then some src else none

/-- One source out of a list: which one is a free value (R242: nondeterministic). -/
def State.pickSource (s : State) (l : List IntSource) : Option IntSource := l[s.free.pick % l.length]?

/-- The source accepted at this boundary (R260). While the core runs, the environment chooses whether an entry comes
before the instruction; a waiting or stopped core has no other step, so it enters as soon as some source is pending and
enabled (R259). -/
def State.accepted (s : State) : Option IntSource :=
  match s.offered with
  | some src => some src
  | none =>
    match s.run with
    | .running => none
    | .waiting => s.pickSource s.candidates
    | .stopped => s.pickSource s.candidates

/-- RS as interrupt entry saves it: bits 7:6 are any value (R28, D9, D34). -/
def State.savedRs (s : State) : Byte := s.free.rsHi ++ s.rs.extractLsb' 0 6

/-- An address entered in a record without repeats. -/
def insertOnce (a : PAddr) (l : List PAddr) : List PAddr := if l.contains a then l else a :: l

/-- Control passes to the source's handler: IE cleared (D14), running, pc at the vector (R244). -/
def State.toHandler (s : State) (src : IntSource) : State :=
  { s with
    rs := withIe s.rs false
    run := .running
    pc := s.vector src
    handlers := insertOnce (s.vector src) s.handlers }

/-- pc is at a handler's first instruction, as far as the machine knows its vectors: one the platform gives, or one at
which a handler has been entered (R288; log entry 15). -/
def State.atHandlerStart (s : State) : Bool :=
  s.handlers.contains s.pc || s.platform.vectors.any (fun v => v.2 == s.pc)

/-- Interrupt entry (R244): pc on the command stack, RS on the data stack, then the handler. When either stack is
full the entry is itself a stack error (R247): the request is latched and both pushes have free results; the
stack-error interrupt's own entry still reaches its handler, any other does not (log entry 11). -/
def State.enterInterrupt (s : State) (src : IntSource) : State :=
  if s.isp = 7 ∨ s.dsp = 15 then
    let t : State :=
      { s with
        stackErr := true
        isp := s.free.isp
        dsp := s.free.dsp
        istack := s.istack.set s.isp.val s.free.retCell s.isp.isLt
        dstack := s.dstack.set s.dsp.val s.free.dataCell s.dsp.isLt }
    match src with
    | .stackError => t.toHandler src
    | .external _ => t
  else
    ((s.ipush s.pc).dpush s.savedRs).toHandler src

/-- Return from interrupt (R203, R248): pc from the command stack, all of RS from the data stack. -/
def State.returnFromInterrupt (s : State) : State :=
  let p := s.ipop
  let r := p.2.dpop
  (r.2.setPc p.1).setRs r.1

/-! ## Fetching and the step's own bookkeeping -/

/-- The instruction at pc (R25, R68, R97, R98). -/
def State.fetchInstr (s : State) : Host.Outcome Instr Fault Refusal :=
  if s.platform.pmemWords ≤ s.pc.toNat then .refused .fetchOutsideProgramMemory
  else
    match Memory.read s.pmem s.pc.toNat with
    | none => .fault .programWordNotLoaded
    | some w =>
      match decode w with
      | .ok i => .next i
      | .error .unassigned => .refused .unassignedWord
      | .error .reservedBits => .refused .reservedJumpBits

/-- The boundary is over: its input is consumed and the free values move on. -/
def State.endBoundary (s : State) : State := { s with tick := s.tick + 1, env := s.env.tail }

/-- A result whose next state's boundary is over. -/
def retireResult : Result → Result
  | .next s => .next s.endBoundary
  | .fault f => .fault f
  | .refused r => .refused r

/-- The environment lets nothing in at this boundary. -/
def acceptNone : List Boundary → List Boundary
  | [] => []
  | b :: bs => { b with accept := none } :: bs

/-! ## Loading a program (from outside the machine: R35, R55) -/

/-- `IMG_ORDER` (decision D2): which byte of a program word a byte file holds first. DESIGN CHOICE (log entry 4): an odd
byte at the end of the image is dropped; the source describes no image format (N22), and D2 settles the byte order
only. -/
def imageWords (lowFirst : Bool) : List Byte → List Word
  | a :: b :: bytes => (if lowFirst then b ++ a else a ++ b) :: imageWords lowFirst bytes
  | _ => []

/-- Program words placed at consecutive addresses. -/
def loadWords (m : Memory 16) (base : Nat) : List Word → Memory 16
  | [] => m
  | w :: ws => loadWords (Memory.write m base w) (base + 1) ws

end Sys2Proof.Machine
end

