-- ==== Sys2Proof/Machine/Control.lean ====
section
/-! DEFINITION. Control-transfer instructions (spec/45_control_transfer.md, rules R190 to R205). -/

namespace Sys2Proof.Machine

/-- JMP (R191). -/
def execJmp (address : PAddr) (s : State) : Result := .next (s.setPc address)

/-- JSR (R192). -/
def execJsr (address : PAddr) (s : State) : Result := .next (s.call address)

/-- JNZ, JNE (R193). -/
def execJnz (address : PAddr) (s : State) : Result := .next (s.branchIf (!s.flags.zero) address)

/-- JZ, JEQ (R194). -/
def execJz (address : PAddr) (s : State) : Result := .next (s.branchIf s.flags.zero address)

/-- JNS (R195). -/
def execJns (address : PAddr) (s : State) : Result := .next (s.branchIf (!s.flags.sign) address)

/-- JS (R196). -/
def execJs (address : PAddr) (s : State) : Result := .next (s.branchIf s.flags.sign address)

/-- JNC (R197). -/
def execJnc (address : PAddr) (s : State) : Result := .next (s.branchIf (!s.flags.carry) address)

/-- JC (R198). -/
def execJc (address : PAddr) (s : State) : Result := .next (s.branchIf s.flags.carry address)

/-- IJMP (R199): IR1 is used whatever its mode and is not modified (log entry 8). -/
def execIjmp (s : State) : Result := .next (s.setPc s.ir1)

/-- IJSR (R200). -/
def execIjsr (s : State) : Result := .next (s.call s.ir1)

/-- RTS (R201). -/
def execRts (s : State) : Result := .next (s.ipop.2.setPc s.ipop.1)

/-- RTSC (R202): C <- c. -/
def execRtsc (c : Bool) (s : State) : Result :=
  .next ((s.ipop.2.setPc s.ipop.1).setFlags { s.flags with carry := c })

/-- RTI (R203). -/
def execRti (s : State) : Result := .next s.returnFromInterrupt

end Sys2Proof.Machine
end

