-- ==== Sys2Proof/Machine/Operands.lean ====
section
/-! DEFINITION. Operand cells: effective address, reading and writing (rules R8, R9 of spec/00_scope.md, R51 to R59
and R68 of spec/20_memory.md), and the access patterns of rule R57, one per row of its table. -/

namespace Sys2Proof.Machine

/-- The service register of a segment (R22). -/
def segReg : Seg → SvcReg
  | .a => 0
  | .b => 1
  | .c => 2
  | .d => 3

/-- The effective address (R8, R51), with the service registers' values at the start of the instruction. Once some
of #4..#7 has been loaded the spec leaves operand addressing to `SvcMeaning` (R23): a free value (log entry 7). -/
def State.ea (s : State) (role : Role) (o : Operand) : Nat :=
  (if s.indirectLoaded then (Config.indirectAddress s.tick s.sr role o.bits).toNat
   else (s.sr.get (segReg o.seg)).toNat * 8 + o.idx.toNat) % 2 ^ s.platform.daddrBits

/-- What the data map makes of an address (R36): the first region that covers it, else RAM. -/
def State.kind (s : State) (a : Nat) : CellKind :=
  match s.platform.dataMap.find? (fun r => decide (r.base ≤ a) && decide (a < r.base + r.size)) with
  | some r => r.kind
  | none => .ram

/-- A RAM byte (R59, R62): the last value written; before any, its free power-on value (log entry 3). -/
def State.ramByte (s : State) (a : Nat) : Byte :=
  match Memory.read s.mem a with
  | some v => v
  | none => Config.powerOnRam a

/-- The value an operand read gives (R9): RAM, or the device's answer. -/
def State.cellValue (s : State) (role : Role) (a : Nat) : Byte :=
  match s.kind a with
  | .ram => s.ramByte a
  | .device => Config.deviceRead s.tick role a
  | .absent => 0

/-- The event a read is: none for RAM, which has no side effects (R59). -/
def State.readEvents (s : State) (a : Nat) : List BusEvent :=
  match s.kind a with
  | .device => [.read a]
  | .ram => []
  | .absent => []

/-- The events of a two-operand instruction's reads: the order of two device reads is open, and one device register
that is both operands is read once or twice (R58, D17; log entry 6). -/
def State.pairEvents (s : State) (sa da : Nat) : List BusEvent :=
  match s.readEvents sa, s.readEvents da with
  | [], ed => ed
  | es, [] => es
  | es, ed =>
    if sa = da ∧ s.free.readsOnce then es
    else if s.free.srcFirst then es ++ ed else ed ++ es

/-- The dst value of a two-operand instruction: the src value again where one read served both. -/
def State.pairDst (s : State) (sa da : Nat) : Byte :=
  match s.kind da with
  | .device => if sa = da ∧ s.free.readsOnce then s.cellValue .src sa else s.cellValue .dst da
  | .ram => s.cellValue .dst da
  | .absent => s.cellValue .dst da

/-- Device accesses recorded. -/
def State.logBus (s : State) (es : List BusEvent) : State := { s with bus := s.bus ++ es }

/-- An operand write (R9): RAM keeps the byte, a device receives it as an event. -/
def State.storeCell (s : State) (a : Nat) (v : Byte) : State :=
  match s.kind a with
  | .ram => { s with mem := Memory.write s.mem a v }
  | .device => s.logBus [.write a v]
  | .absent => s

/-- The access exists (R68). -/
def State.present (s : State) (a : Nat) : Bool := decide (s.kind a ≠ .absent)

/-- Read dst, write dst: the one-operand instructions, ADDL, SUBL, BIC, BIS, BTG (R57). `f` is given the byte and the
old flags. -/
def readModifyWrite (dst : Operand) (f : Byte → Flags → Alu) (s : State) : Result :=
  let a := s.ea .dst dst
  if s.present a then
    let r := f (s.cellValue .dst a) s.flags
    .next ((((s.logBus (s.readEvents a)).storeCell a r.value).setFlags r.flags).advance)
  else .refused .undefinedDataAddress

/-- Read dst, write nothing: CMPL, BTT (R57, D16). -/
def readTest (dst : Operand) (f : Byte → Alu) (s : State) : Result :=
  let a := s.ea .dst dst
  if s.present a then
    .next (((s.logBus (s.readEvents a)).setFlags (f (s.cellValue .dst a)).flags).advance)
  else .refused .undefinedDataAddress

/-- Read nothing, write dst and the flags: MOVL (R57, D16). -/
def writeOnly (dst : Operand) (r : Alu) (s : State) : Result :=
  let a := s.ea .dst dst
  if s.present a then .next (((s.storeCell a r.value).setFlags r.flags).advance)
  else .refused .undefinedDataAddress

/-- Read src, write dst: MOV (R57). -/
def moveCell (dst src : Operand) (f : Byte → Flags → Alu) (s : State) : Result :=
  let sa := s.ea .src src
  let da := s.ea .dst dst
  if s.present sa && s.present da then
    let r := f (s.cellValue .src sa) s.flags
    .next ((((s.logBus (s.readEvents sa)).storeCell da r.value).setFlags r.flags).advance)
  else .refused .undefinedDataAddress

/-- Read src and dst, write dst: ADD, SUB, AND, OR, XOR (R57). `f` is given the dst byte and the src byte. -/
def combineCells (dst src : Operand) (f : Byte → Byte → Alu) (s : State) : Result :=
  let sa := s.ea .src src
  let da := s.ea .dst dst
  if s.present sa && s.present da then
    let r := f (s.pairDst sa da) (s.cellValue .src sa)
    .next ((((s.logBus (s.pairEvents sa da)).storeCell da r.value).setFlags r.flags).advance)
  else .refused .undefinedDataAddress

/-- Read src and dst, write nothing: CMP (R57, D16). -/
def compareCells (dst src : Operand) (f : Byte → Byte → Alu) (s : State) : Result :=
  let sa := s.ea .src src
  let da := s.ea .dst dst
  if s.present sa && s.present da then
    .next (((s.logBus (s.pairEvents sa da)).setFlags (f (s.pairDst sa da) (s.cellValue .src sa)).flags).advance)
  else .refused .undefinedDataAddress

end Sys2Proof.Machine
end

