-- ==== Sys2Proof/Machine/Literal.lean ====
section
/-! DEFINITION. Literal instructions (spec/42_literal.md, rules R130 to R138). -/

namespace Sys2Proof.Machine

/-- MOVL (R131): dst is not read; C and DC kept, OF cleared. -/
def execMovl (dst : Operand) (const : Byte) (s : State) : Result := writeOnly dst (move8 s.flags const) s

/-- CMPL (R132): dst - const, flags only. -/
def execCmpl (dst : Operand) (const : Byte) (s : State) : Result :=
  readTest dst (fun d => sub8 s.platform.ofSubRule d const false) s

/-- ADDL (R133). -/
def execAddl (dst : Operand) (sconst : BitVec 5) (s : State) : Result :=
  readModifyWrite dst (fun d _ => add8 d (shortLiteral sconst) false) s

/-- SUBL (R134). -/
def execSubl (dst : Operand) (sconst : BitVec 5) (s : State) : Result :=
  readModifyWrite dst (fun d _ => sub8 s.platform.ofSubRule d (shortLiteral sconst) false) s

/-- BIC (R135). -/
def execBic (dst : Operand) (p : Place) (tconst : BitVec 4) (s : State) : Result :=
  readModifyWrite dst (fun d _ => logic8 (d &&& ~~~tetradLiteral p tconst)) s

/-- BIS (R136). -/
def execBis (dst : Operand) (p : Place) (tconst : BitVec 4) (s : State) : Result :=
  readModifyWrite dst (fun d _ => logic8 (d ||| tetradLiteral p tconst)) s

/-- BTG (R137). -/
def execBtg (dst : Operand) (p : Place) (tconst : BitVec 4) (s : State) : Result :=
  readModifyWrite dst (fun d _ => logic8 (d ^^^ tetradLiteral p tconst)) s

/-- BTT (R138): flags only. -/
def execBtt (dst : Operand) (p : Place) (tconst : BitVec 4) (s : State) : Result :=
  readTest dst (fun d => logic8 (d &&& tetradLiteral p tconst)) s

end Sys2Proof.Machine
end

