-- ==== Sys2Proof/Machine/OneOperand.lean ====
section
/-! DEFINITION. One-operand instructions (spec/43_one_operand.md, rules R150 to R160). -/

namespace Sys2Proof.Machine

/-- SWAP (R151). -/
def execSwap (dst : Operand) (s : State) : Result := readModifyWrite dst (fun v _ => logic8 (swapTetrads v)) s

/-- NEG (R152): 0 - dst with the flags of that subtraction (D32). -/
def execNeg (dst : Operand) (s : State) : Result :=
  readModifyWrite dst (fun v _ => sub8 s.platform.ofSubRule 0 v false) s

/-- NOT (R153): C and DC kept (conflict C8), OF cleared. -/
def execNot (dst : Operand) (s : State) : Result := readModifyWrite dst (fun v old => move8 old (v ^^^ 0xFF)) s

/-- SHL (R154): 0 enters. -/
def execShl (dst : Operand) (s : State) : Result := readModifyWrite dst (fun v _ => shiftLeft8 v false) s

/-- SHR (R155): 0 enters, so S is 0. -/
def execShr (dst : Operand) (s : State) : Result := readModifyWrite dst (fun v _ => shiftRight8 v false) s

/-- SHRA (R156): bit 7 stays. -/
def execShra (dst : Operand) (s : State) : Result := readModifyWrite dst (fun v _ => shiftRight8 v (v.getLsbD 7)) s

/-- RLC (R157): the old C enters. -/
def execRlc (dst : Operand) (s : State) : Result := readModifyWrite dst (fun v old => shiftLeft8 v old.carry) s

/-- RRC (R158): the old C enters. -/
def execRrc (dst : Operand) (s : State) : Result := readModifyWrite dst (fun v old => shiftRight8 v old.carry) s

/-- ADC (R159): dst + C (D33). -/
def execAdc (dst : Operand) (s : State) : Result := readModifyWrite dst (fun v old => add8 v 0 old.carry) s

/-- SBC (R160): dst - C (D33). -/
def execSbc (dst : Operand) (s : State) : Result :=
  readModifyWrite dst (fun v old => sub8 s.platform.ofSubRule v 0 old.carry) s

end Sys2Proof.Machine
end

