-- ==== Sys2Proof/Machine/Service.lean ====
section
/-! DEFINITION. Service-register and status-register instructions (spec/44_service_registers.md, rules R170 to R179). -/

namespace Sys2Proof.Machine

/-- LDR (R171). -/
def execLdr (n : SvcReg) (const : Byte) (s : State) : Result := .next (s.writeSr n const).advance

/-- MTPR (R172): the operand's address is formed before the register is written; RS unchanged. -/
def execMtpr (n : SvcReg) (src : Operand) (s : State) : Result :=
  let a := s.ea .src src
  if s.present a then .next (((s.logBus (s.readEvents a)).writeSr n (s.cellValue .src a)).advance)
  else .refused .undefinedDataAddress

/-- MFPR (R173): dst is not read; RS unchanged. -/
def execMfpr (dst : Operand) (n : SvcReg) (s : State) : Result :=
  let a := s.ea .dst dst
  if s.present a then .next ((s.storeCell a (s.readSr n)).advance)
  else .refused .undefinedDataAddress

/-- PUSH (R174). -/
def execPush (n : SvcReg) (s : State) : Result := .next (s.dpush (s.readSr n)).advance

/-- POP (R175). -/
def execPop (n : SvcReg) (s : State) : Result := .next ((s.dpop.2.writeSr n s.dpop.1).advance)

/-- SST (R176): the mask's bits of RS[3:0] set. -/
def execSst (mask : BitVec 4) (s : State) : Result := .next (s.setRs (s.rs ||| (0#4 ++ mask))).advance

/-- CST (R177): the mask's bits of RS[3:0] cleared. -/
def execCst (mask : BitVec 4) (s : State) : Result := .next (s.setRs (s.rs &&& ~~~(0#4 ++ mask))).advance

/-- TOF (R178): Z <- OF. -/
def execTof (s : State) : Result := .next (s.setFlags { s.flags with zero := s.flags.overflow }).advance

/-- TDC (R179): Z <- DC. -/
def execTdc (s : State) : Result := .next (s.setFlags { s.flags with zero := s.flags.digit }).advance

end Sys2Proof.Machine
end

