-- ==== Sys2Proof/Machine/Special.lean ====
section
/-! DEFINITION. Special instructions (spec/46_special.md, rules R220 to R225). -/

namespace Sys2Proof.Machine

/-- NOP (R221). -/
def execNop (s : State) : Result := .next s.advance

/-- WAIT (R222): IE set, fetching stops; pc is the address an interrupt saves (D26). -/
def execWait (s : State) : Result := .next { (s.setRs (withIe s.rs true)).advance with run := .waiting }

/-- STOP (R223): as WAIT, and the clock generator stops. -/
def execStop (s : State) : Result := .next { (s.setRs (withIe s.rs true)).advance with run := .stopped }

/-- RESET (R224): both stack pointers and the stack-error request. At a handler's first address it need not reset the
pointers (R288): they are then free (log entry 15). -/
def execReset (s : State) : Result :=
  .next { s.advance with
    isp := if s.atHandlerStart then s.free.isp else 0
    dsp := if s.atHandlerStart then s.free.dsp else 0
    stackErr := false }

/-- SKSP (R225): one return level dropped, pc not loaded. -/
def execSksp (s : State) : Result := .next s.ipop.2.advance

end Sys2Proof.Machine
end

