-- ==== Sys2Proof/Machine/TwoOperand.lean ====
section
/-! DEFINITION. Two-operand instructions (spec/41_two_operand.md, rules R110 to R117). -/

namespace Sys2Proof.Machine

/-- MOV (R111): dst is not read; C and DC kept, OF cleared. -/
def execMov (dst src : Operand) (s : State) : Result := moveCell dst src (fun v old => move8 old v) s

/-- CMP (R112): dst - src, flags only. -/
def execCmp (dst src : Operand) (s : State) : Result :=
  compareCells dst src (fun d v => sub8 s.platform.ofSubRule d v false) s

/-- ADD (R113): carry-in 0. -/
def execAdd (dst src : Operand) (s : State) : Result := combineCells dst src (fun d v => add8 d v false) s

/-- SUB (R114): dst - src, borrow-in 0. -/
def execSub (dst src : Operand) (s : State) : Result :=
  combineCells dst src (fun d v => sub8 s.platform.ofSubRule d v false) s

/-- AND (R115). -/
def execAnd (dst src : Operand) (s : State) : Result := combineCells dst src (fun d v => logic8 (d &&& v)) s

/-- OR (R116). -/
def execOr (dst src : Operand) (s : State) : Result := combineCells dst src (fun d v => logic8 (d ||| v)) s

/-- XOR (R117). -/
def execXor (dst src : Operand) (s : State) : Result := combineCells dst src (fun d v => logic8 (d ^^^ v)) s

end Sys2Proof.Machine
end

