-- ==== Sys2Proof/Machine/Dispatch.lean ====
section
/-! DEFINITION. One arm per instruction (Table 8, rule R96). -/

namespace Sys2Proof.Machine

def exec (i : Instr) (s : State) : Host.Outcome State Fault Refusal :=
  match i with
  | .mov dst src => Sys2Proof.Machine.execMov dst src s
  | .cmp dst src => Sys2Proof.Machine.execCmp dst src s
  | .add dst src => Sys2Proof.Machine.execAdd dst src s
  | .sub dst src => Sys2Proof.Machine.execSub dst src s
  | .and dst src => Sys2Proof.Machine.execAnd dst src s
  | .or dst src => Sys2Proof.Machine.execOr dst src s
  | .xor dst src => Sys2Proof.Machine.execXor dst src s
  | .movl dst const => Sys2Proof.Machine.execMovl dst const s
  | .cmpl dst const => Sys2Proof.Machine.execCmpl dst const s
  | .addl dst sconst => Sys2Proof.Machine.execAddl dst sconst s
  | .subl dst sconst => Sys2Proof.Machine.execSubl dst sconst s
  | .bic dst p tconst => Sys2Proof.Machine.execBic dst p tconst s
  | .bis dst p tconst => Sys2Proof.Machine.execBis dst p tconst s
  | .btg dst p tconst => Sys2Proof.Machine.execBtg dst p tconst s
  | .btt dst p tconst => Sys2Proof.Machine.execBtt dst p tconst s
  | .swap dst => Sys2Proof.Machine.execSwap dst s
  | .neg dst => Sys2Proof.Machine.execNeg dst s
  | .not dst => Sys2Proof.Machine.execNot dst s
  | .shl dst => Sys2Proof.Machine.execShl dst s
  | .shr dst => Sys2Proof.Machine.execShr dst s
  | .shra dst => Sys2Proof.Machine.execShra dst s
  | .rlc dst => Sys2Proof.Machine.execRlc dst s
  | .rrc dst => Sys2Proof.Machine.execRrc dst s
  | .adc dst => Sys2Proof.Machine.execAdc dst s
  | .sbc dst => Sys2Proof.Machine.execSbc dst s
  | .ldr n const => Sys2Proof.Machine.execLdr n const s
  | .mtpr n src => Sys2Proof.Machine.execMtpr n src s
  | .mfpr dst n => Sys2Proof.Machine.execMfpr dst n s
  | .push n => Sys2Proof.Machine.execPush n s
  | .pop n => Sys2Proof.Machine.execPop n s
  | .sst mask => Sys2Proof.Machine.execSst mask s
  | .cst mask => Sys2Proof.Machine.execCst mask s
  | .tof => Sys2Proof.Machine.execTof s
  | .tdc => Sys2Proof.Machine.execTdc s
  | .jmp address => Sys2Proof.Machine.execJmp address s
  | .jsr address => Sys2Proof.Machine.execJsr address s
  | .jnz address => Sys2Proof.Machine.execJnz address s
  | .jz address => Sys2Proof.Machine.execJz address s
  | .jns address => Sys2Proof.Machine.execJns address s
  | .js address => Sys2Proof.Machine.execJs address s
  | .jnc address => Sys2Proof.Machine.execJnc address s
  | .jc address => Sys2Proof.Machine.execJc address s
  | .ijmp => Sys2Proof.Machine.execIjmp s
  | .ijsr => Sys2Proof.Machine.execIjsr s
  | .rts => Sys2Proof.Machine.execRts s
  | .rtsc c => Sys2Proof.Machine.execRtsc c s
  | .rti => Sys2Proof.Machine.execRti s
  | .nop => Sys2Proof.Machine.execNop s
  | .wait => Sys2Proof.Machine.execWait s
  | .stop => Sys2Proof.Machine.execStop s
  | .reset => Sys2Proof.Machine.execReset s
  | .sksp => Sys2Proof.Machine.execSksp s

end Sys2Proof.Machine
end

