-- ==== Sys2Proof/Machine/Step.lean ====
section
/-! DEFINITION. One step (rule R260 of spec/60_exceptions.md): accept an interrupt at the boundary, or run the
instruction at pc, or, waiting with nothing pending and enabled, let the boundary pass (log entry 12). -/

namespace Sys2Proof.Machine

/-- Run the instruction at pc. -/
def runInstr (s : State) : Host.Outcome State Fault Refusal :=
  match s.fetchInstr with
  | .next i => retireResult (exec i s)
  | .fault f => .fault f
  | .refused r => .refused r

def step (s : State) : Host.Outcome State Fault Refusal :=
  match s.accepted with
  | some src => .next (s.enterInterrupt src).endBoundary
  | none =>
    match s.run with
    | .running => runInstr s
    | .waiting => .next s.endBoundary
    | .stopped => .next s.endBoundary

/-- The instruction word stored at pc, and whatever else the very next step needs to fetch and run it: pc inside the
program memory, the core running, and no interrupt let in at this boundary (log entry 4). -/
def State.withFetchWord (s : State) (nbits w : Nat) : State :=
  { s with
    pmem := Memory.write s.pmem s.pc.toNat (BitVec.ofNat 16 (w % 2 ^ nbits))
    platform := { s.platform with pmemWords := max s.platform.pmemWords (s.pc.toNat + 1) }
    run := .running
    env := acceptNone s.env }

end Sys2Proof.Machine
end

