-- ==== Sys2Proof/Safety.lean ====
section
/-! DEFINITION. What counts as a good state and a finished run, in the terms the claims use. -/

namespace Sys2Proof.Machine

/-- The parameters are within the bounds the spec gives them (R4: DADDR_BITS at most 11, PMEM_WORDS at most 1024). -/
structure Platform.Bounded (p : Platform) : Prop where
  daddrBits : p.daddrBits ≤ 11
  pmemWords : p.pmemWords ≤ 1024

/-- A good state. -/
structure State.Inv (s : State) : Prop where
  /-- Data memory is in canonical form. -/
  memWf      : Memory.wf s.mem = true
  /-- Every byte listed lies in the data address space (R53). -/
  memInSpace : ∀ c ∈ s.mem, c.1 < 2 ^ s.platform.daddrBits
  /-- Every byte listed is RAM: devices keep no byte in the core's memory (R59). -/
  memIsRam   : ∀ c ∈ s.mem, s.kind c.1 = .ram
  /-- Program memory is in canonical form. -/
  pmemWf     : Memory.wf s.pmem = true
  /-- A service register stores its implemented bits only (R21). -/
  srMasked   : ∀ n : SvcReg, s.sr.get n &&& ~~~(s.platform.srMask.get n) = 0#8
  /-- The record of handlers entered has no repeats (log entry 15). -/
  handlersOnce : s.handlers.Nodup

/-- No source is pending now or at any coming boundary: no stack-error request, and no input that lists a source. -/
def State.nothingEverPending (s : State) : Prop := s.stackErr = false ∧ ∀ b ∈ s.env, b.pending = []

/-- A run is over (decision D24): at a JMP to itself with IE = 0, or at WAIT or STOP with no source ever pending. -/
def State.ended (s : State) : Prop :=
  (s.run = .running ∧ s.ie = false ∧ s.fetchInstr = .next (.jmp s.pc)) ∨
    (s.run ≠ .running ∧ s.nothingEverPending)

/-- k steps complete without a fault or a refusal. -/
def State.runsSafely (k : Nat) (s : State) : Prop := ∃ t, Host.Core.run Sys2Proof.core k s = .next t

/-- The next step runs the instruction i: nothing is accepted, the core runs, and i is fetched. -/
def State.AboutToRun (s : State) (i : Instr) : Prop :=
  s.accepted = none ∧ s.run = .running ∧ s.fetchInstr = .next i

/-- k steps lead from s to t, and p holds before each of them. -/
def StepsWhile (p : State → Prop) : Nat → State → State → Prop
  | 0, s, t => s = t
  | k + 1, s, t => p s ∧ ∃ u, step s = .next u ∧ StepsWhile p k u t

/-- The source is pending and RS.IE lets it in or does not gate it (R244). -/
def State.CanEnter (s : State) (src : IntSource) : Prop :=
  s.isPending src = true ∧ (s.rs.getLsbD 3 = true ∨ src ∈ s.platform.ungated)

/-! ## What the claims about instructions say -/

/-- RS after: the five condition flags as given; IE and bits 7:6 as before (R14). -/
def RsIs (old new : Byte) (c z s o d : Bool) : Prop :=
  new.getLsbD 0 = c ∧ new.getLsbD 1 = z ∧ new.getLsbD 2 = s ∧ new.getLsbD 4 = o ∧ new.getLsbD 5 = d ∧
    new.getLsbD 3 = old.getLsbD 3 ∧ new.getLsbD 6 = old.getLsbD 6 ∧ new.getLsbD 7 = old.getLsbD 7

/-- RS after an addition a + b + cin (R12): C when the sum reaches 256, DC when the low tetrads' reaches 16, OF when
the signed sum does not fit -128..127, Z and S from the result. -/
def RsAfterAdd (old new a b : Byte) (cin : Bool) : Prop :=
  RsIs old new (decide (256 ≤ a.toNat + b.toNat + cin.toNat)) (decide ((a.toNat + b.toNat + cin.toNat) % 256 = 0))
    (decide (128 ≤ (a.toNat + b.toNat + cin.toNat) % 256))
    (decide (a.toInt + b.toInt + cin.toNat < -128 ∨ 127 < a.toInt + b.toInt + cin.toNat))
    (decide (16 ≤ a.toNat % 16 + b.toNat % 16 + cin.toNat))

/-- OF after a subtraction (R13): the signed difference does not fit -128..127; or, under the other value of
`OF_SUB_RULE` (D10), bit 7 of (a xor r) and (b xor r). -/
def OfAfterSub (rule : OfSubRule) (a b : Byte) (bin : Bool) : Bool :=
  match rule with
  | .signedOverflow => decide (a.toInt - b.toInt - bin.toNat < -128 ∨ 127 < a.toInt - b.toInt - bin.toNat)
  | .addStyle =>
    let r := BitVec.ofInt 8 ((a.toNat : Int) - b.toNat - bin.toNat)
    ((a ^^^ r) &&& (b ^^^ r)).getLsbD 7

/-- RS after a subtraction a - b - bin (R13): C and DC the borrows, OF by `OF_SUB_RULE`, Z and S from the result. -/
def RsAfterSub (rule : OfSubRule) (old new a b : Byte) (bin : Bool) : Prop :=
  RsIs old new (decide (a.toNat < b.toNat + bin.toNat)) (decide (((a.toNat : Int) - b.toNat - bin.toNat) % 256 = 0))
    (decide (128 ≤ ((a.toNat : Int) - b.toNat - bin.toNat) % 256))
    (OfAfterSub rule a b bin)
    (decide (a.toNat % 16 < b.toNat % 16 + bin.toNat))

/-- RS after a logical result r: Z and S from it; C, OF, DC cleared. -/
def RsAfterLogic (old new r : Byte) : Prop :=
  RsIs old new false (decide (r.toNat = 0)) (decide (128 ≤ r.toNat)) false false

/-- RS after a moved value r: Z and S from it, OF cleared; C and DC kept. -/
def RsAfterMove (old new r : Byte) : Prop :=
  RsIs old new (old.getLsbD 0) (decide (r.toNat = 0)) (decide (128 ≤ r.toNat)) false (old.getLsbD 5)

/-- The device reads `reads` happened, then byte v was stored at a: a RAM byte holds it, a device received it; every
other byte of memory reads as before. -/
def Stores (s t : State) (reads : List BusEvent) (a : Nat) (v : Byte) : Prop :=
  (s.kind a = .ram → Memory.read t.mem a = some v ∧ t.bus = s.bus ++ reads) ∧
    (s.kind a = .device → t.mem = s.mem ∧ t.bus = s.bus ++ reads ++ [.write a v]) ∧
    (∀ b, b ≠ a → Memory.read t.mem b = Memory.read s.mem b)

/-- The device reads `reads` happened and nothing was stored: every byte of memory reads as before. -/
def StoresNothing (s t : State) (reads : List BusEvent) : Prop :=
  t.mem = s.mem ∧ t.bus = s.bus ++ reads

/-- Nothing but pc (to the next word), RS, data memory and the device accesses may differ. -/
def DataFrame (s t : State) : Prop :=
  t = { s with pc := s.pc + 1, rs := t.rs, mem := t.mem, bus := t.bus }

/-- The word n (as the instruction's rule writes it) decodes to the instruction. -/
def Encoded (n : Nat) (i : Instr) : Prop := decode (BitVec.ofNat 16 n) = .ok i

/-- Every data operand of an instruction, with its role (R57). -/
def dataOperands : Instr → List (Role × Operand)
  | .mov d s | .cmp d s | .add d s | .sub d s | .and d s | .or d s | .xor d s => [(.src, s), (.dst, d)]
  | .movl d _ | .cmpl d _ | .addl d _ | .subl d _ => [(.dst, d)]
  | .bic d _ _ | .bis d _ _ | .btg d _ _ | .btt d _ _ => [(.dst, d)]
  | .swap d | .neg d | .not d | .shl d | .shr d | .shra d | .rlc d | .rrc d | .adc d | .sbc d => [(.dst, d)]
  | .mtpr _ s => [(.src, s)]
  | .mfpr d _ => [(.dst, d)]
  | .ldr _ _ | .push _ | .pop _ | .sst _ | .cst _ | .tof | .tdc => []
  | .jmp _ | .jsr _ | .jnz _ | .jz _ | .jns _ | .js _ | .jnc _ | .jc _ => []
  | .ijmp | .ijsr | .rts | .rtsc _ | .rti | .nop | .wait | .stop | .reset | .sksp => []

/-- The instructions that write no data operand (R57). -/
def writesNoData : Instr → Bool
  | .cmp _ _ | .cmpl _ _ | .btt _ _ _ | .mtpr _ _ => true
  | i => (dataOperands i).isEmpty

/-- The stack-error conditions an instruction can meet (R241). -/
def stackErrorCause (s : State) : Instr → Bool
  | .push _ => decide (s.dsp = 15)
  | .pop _ => decide (s.dsp = 0)
  | .jsr _ | .ijsr => decide (s.isp = 7)
  | .rts | .rtsc _ | .sksp => decide (s.isp = 0)
  | .rti => decide (s.isp = 0) || decide (s.dsp = 0)
  | _ => false

/-- How an instruction that meets no stack error moves ISP (R30); RESET apart. -/
def ispMove : Instr → Int
  | .jsr _ | .ijsr => 1
  | .rts | .rtsc _ | .rti | .sksp => -1
  | _ => 0

/-- How an instruction that meets no stack error moves DSP (R31); RESET apart. -/
def dspMove : Instr → Int
  | .push _ => 1
  | .pop _ | .rti => -1
  | _ => 0

end Sys2Proof.Machine
end

