-- ==== Sys2Proof/Certificates/Slice0/Obligations.lean ====
section
/-! DEFINITION. The statements for the provers (OBLIGATIONS.json). `Encoded n i`: the word n decodes to i, with n
written as the instruction's rule writes it. `pairDst`, `cellValue`, `pairEvents`, `readEvents`, `ea` are the model's
own reading of operands, applied to the state before the instruction. -/

open Sys2Proof Sys2Proof.Machine

/-! ## Decoding and encoding -/

/-- R96: decoding gives back every instruction from its word, every operand at every value. -/
def Obligations.DecodeOfEncode : Prop :=
  ∀ i : Instr, decode (encode i) = .ok i

/-- Each word has one meaning: encoding a decoded instruction gives back the whole word. -/
def Obligations.EncodeOfDecode : Prop :=
  ∀ (w : Word) (i : Instr), decode w = .ok i → encode i = w

/-- R96: a word is an instruction of a row iff w and mask = match. -/
def Obligations.DecodeFollowsOpcodeMap : Prop :=
  ∀ (w : Word) (i : Instr), w &&& i.row.2 = i.row.1 ↔ ∃ j, decode w = .ok j ∧ j.row = i.row

/-- R97, R98, R68: exactly the listed words are unassigned, exactly the jump words with bits 11:10 not 00 are reserved;
a running core with nothing accepted that fetches either is refused (D18; log entry 18), at or above PMEM_WORDS is
refused (D6; log entry 20), and at an implemented word that has not been loaded faults (log entry 4). -/
def Obligations.UnassignedWordsAreRefused : Prop :=
  (∀ w : Word,
    (decode w = .error .unassigned ↔
      (0x0009 ≤ w.toNat ∧ w.toNat ≤ 0x000B) ∨ (0x0160 ≤ w.toNat ∧ w.toNat ≤ 0x017F) ∨
        (0x0190 ≤ w.toNat ∧ w.toNat ≤ 0x01BF) ∨ (0x01D0 ≤ w.toNat ∧ w.toNat ≤ 0x01FF)) ∧
    (decode w = .error .reservedBits ↔ 0x8000 ≤ w.toNat ∧ w.toNat / 1024 % 4 ≠ 0)) ∧
  (∀ s : State, s.accepted = none → s.run = .running →
    (s.platform.pmemWords ≤ s.pc.toNat → step s = .refused .fetchOutsideProgramMemory) ∧
    (s.pc.toNat < s.platform.pmemWords → Memory.read s.pmem s.pc.toNat = none →
      step s = .fault .programWordNotLoaded) ∧
    (∀ w : Word, s.pc.toNat < s.platform.pmemWords → Memory.read s.pmem s.pc.toNat = some w →
      (decode w = .error .unassigned → step s = .refused .unassignedWord) ∧
      (decode w = .error .reservedBits → step s = .refused .reservedJumpBits)))

/-- Words written out from the patterns of Table 8 decode to their instructions: those of the source's examples, and
JSR 200h and RTSC 1 of the derived vectors (95_test_vectors.md Part 2), of which the source has no example (N28). -/
def Obligations.ExampleWordsDecode : Prop :=
  decode 0b0000010101100000 = .ok (.mov ⟨.a, 0⟩ ⟨.b, 3⟩) ∧
  decode 0b0101010010100000 = .ok (.movl ⟨.a, 0⟩ 0xA5) ∧
  decode 0b0010101010100000 = .ok (.bic ⟨.a, 0⟩ .high 5) ∧
  decode 0b0000000001000000 = .ok (.neg ⟨.a, 0⟩) ∧
  decode 0b0010000000001010 = .ok (.ldr 2 1) ∧
  decode 0b0000001001000000 = .ok (.mtpr 2 ⟨.a, 0⟩) ∧
  decode 0b0000000110000101 = .ok (.sst 5) ∧
  decode 0b1001001000000000 = .ok (.jsr 0x200) ∧
  decode 0b0000000000001111 = .ok (.rtsc true) ∧
  decode 0b0000000000000110 = .ok .sksp

/-- R102, R103 (R103's division; log entry 24): the pseudo-instructions, and `LDR #n` with a segment's start address. -/
def Obligations.AssemblerForms : Prop :=
  (∀ d : Operand, Asm.assemble (.clr d) = some (.movl d 0) ∧ Asm.assemble (.inc d) = some (.addl d 1) ∧
    Asm.assemble (.dec d) = some (.subl d 1)) ∧
  (∀ a : PAddr, Asm.assemble (.jeq a) = some (.jz a) ∧ Asm.assemble (.jne a) = some (.jnz a)) ∧
  (∀ (d : Operand) (t : BitVec 4),
    Asm.assemble (.bicl d t) = some (.bic d .low t) ∧ Asm.assemble (.bich d t) = some (.bic d .high t) ∧
    Asm.assemble (.bisl d t) = some (.bis d .low t) ∧ Asm.assemble (.bish d t) = some (.bis d .high t) ∧
    Asm.assemble (.btgl d t) = some (.btg d .low t) ∧ Asm.assemble (.btgh d t) = some (.btg d .high t) ∧
    Asm.assemble (.bttl d t) = some (.btt d .low t) ∧ Asm.assemble (.btth d t) = some (.btt d .high t)) ∧
  (∀ (n : SvcReg) (k : Byte), n.val < 4 → Asm.assemble (.ldr n (8 * k.toNat)) = some (.ldr n k)) ∧
  (∀ (n : SvcReg) (a : Nat), n.val < 4 → a % 8 ≠ 0 → Asm.assemble (.ldr n a) = none)

/-! ## The step, interrupts and the whole machine -/

/-- With no interrupt accepted, a running core's step is exec of the decoded instruction, then the boundary's
bookkeeping (log entries 12, 21): the free values move on and the environment's entry is used up. -/
def Obligations.StepRunsTheDecodedInstruction : Prop :=
  ∀ (s : State) (w : Word) (i : Instr), s.accepted = none → s.run = .running →
    s.pc.toNat < s.platform.pmemWords → Memory.read s.pmem s.pc.toNat = some w → decode w = .ok i →
      step s =
        match exec i s with
        | .next t => .next { t with tick := t.tick + 1, env := t.env.tail }
        | .fault f => .fault f
        | .refused r => .refused r

/-- R244's condition over the model's input list (log entry 12). Only a pending source that RS.IE lets in or does not
gate is accepted; a running core accepts exactly the one its environment names; a waiting or stopped core accepts one
as soon as there is one (R259, R260), and one that the environment names before any other. -/
def Obligations.AcceptedIffPendingAndEnabled : Prop :=
  (∀ (s : State) (src : IntSource), s.accepted = some src → s.CanEnter src) ∧
  (∀ (s : State) (b : Boundary) (bs : List Boundary) (src : IntSource), s.env = b :: bs → b.accept = some src →
    s.CanEnter src → s.accepted = some src) ∧
  (∀ (s : State) (src : IntSource), s.run = .running → s.accepted = some src →
    ∃ b bs, s.env = b :: bs ∧ b.accept = some src) ∧
  (∀ s : State, s.run ≠ .running → (s.accepted = none ↔ ∀ src, ¬ s.CanEnter src)) ∧
  (∀ s : State, s.isPending .stackError = s.stackErr) ∧
  (∀ (s : State) (n : Nat), s.isPending (.external n) = true ↔ ∃ b bs, s.env = b :: bs ∧ n ∈ b.pending)

/-- R244: entry with room on both stacks saves pc and RS[5:0] (RS[7:6] any value: D9, D34, log entry 13), clears IE only
(D14, log entry 14), runs the handler at the vector and changes nothing else (but the model's own marks, log entries 12,
15, 21). With either stack full the entry is a stack error (at DSP = 15: D25); that the step then answers a next state,
with the request set, is the model's choice of log entries 9 and 11, where the spec makes it a fault of the run (D19).
R252: the vector is the platform's where it lists the source (log entry 2). -/
def Obligations.InterruptEntry : Prop :=
  (∀ (s : State) (src : IntSource), s.accepted = some src →
    (s.isp ≠ 7 → s.dsp ≠ 15 → ∃ t, step s = .next t ∧
      t.istack.get s.isp = s.pc ∧ (∀ k, k ≠ s.isp → t.istack.get k = s.istack.get k) ∧ t.isp.val = s.isp.val + 1 ∧
      (∀ j, j < 6 → (t.dstack.get s.dsp).getLsbD j = s.rs.getLsbD j) ∧
      (∀ k, k ≠ s.dsp → t.dstack.get k = s.dstack.get k) ∧ t.dsp.val = s.dsp.val + 1 ∧
      (∀ j, t.rs.getLsbD j = if j = 3 then false else s.rs.getLsbD j) ∧
      t.run = .running ∧ t.pc = s.vector src ∧ (∀ a, a ∈ t.handlers ↔ a = s.vector src ∨ a ∈ s.handlers) ∧
      t = { s with pc := t.pc, rs := t.rs, istack := t.istack, isp := t.isp, dstack := t.dstack, dsp := t.dsp,
                   run := t.run, handlers := t.handlers, tick := s.tick + 1, env := s.env.tail }) ∧
    (s.isp = 7 ∨ s.dsp = 15 → ∃ t, step s = .next t ∧ t.stackErr = true)) ∧
  (∀ (s : State) (src : IntSource) (a : PAddr) (before after : List (IntSource × PAddr)),
    s.platform.vectors = before ++ (src, a) :: after → (∀ v ∈ before, v.1 ≠ src) → s.vector src = a)

/-- The model's choice of log entries 9 and 11 (the spec leaves it open, R246, R247, U6): with a full stack the
stack-error interrupt still reaches its handler with IE cleared, and any other source stays out, pc, RS and the run
state kept. In both the pointers and the cells at the old pointers are left open and nothing else changes (but the
model's own marks, log entries 12, 15, 21). -/
def Obligations.EntryAtAFullStack : Prop :=
  (∀ s : State, s.accepted = some .stackError → (s.isp = 7 ∨ s.dsp = 15) → ∃ t, step s = .next t ∧
    t.pc = s.vector .stackError ∧ t.run = .running ∧ t.stackErr = true ∧
    (∀ j, t.rs.getLsbD j = if j = 3 then false else s.rs.getLsbD j) ∧
    (∀ k, k ≠ s.isp → t.istack.get k = s.istack.get k) ∧ (∀ k, k ≠ s.dsp → t.dstack.get k = s.dstack.get k) ∧
    (∀ a, a ∈ t.handlers ↔ a = s.vector .stackError ∨ a ∈ s.handlers) ∧
    t = { s with pc := t.pc, rs := t.rs, istack := t.istack, isp := t.isp, dstack := t.dstack, dsp := t.dsp,
                 run := t.run, stackErr := true, handlers := t.handlers, tick := s.tick + 1, env := s.env.tail }) ∧
  (∀ (s : State) (n : Nat), s.accepted = some (.external n) → (s.isp = 7 ∨ s.dsp = 15) → ∃ t, step s = .next t ∧
    (∀ k, k ≠ s.isp → t.istack.get k = s.istack.get k) ∧ (∀ k, k ≠ s.dsp → t.dstack.get k = s.dstack.get k) ∧
    t = { s with istack := t.istack, isp := t.isp, dstack := t.dstack, dsp := t.dsp, stackErr := true,
                 tick := s.tick + 1, env := s.env.tail })

/-- R248, R251: an entry with room followed by RTI resumes: pc, RS[5:0] (IE among them) and both pointers are back
(the spec's decisions D14 and D9, log entries 13 and 14, are in the entry); at once, or after any steps of the handler
that keep both pointers above where they were. -/
def Obligations.EntryThenRtiResumes : Prop :=
  ∀ (s : State) (src : IntSource), s.accepted = some src → s.isp ≠ 7 → s.dsp ≠ 15 →
    (∃ t u, step s = .next t ∧ exec .rti t = .next u ∧
      u.pc = s.pc ∧ u.isp = s.isp ∧ u.dsp = s.dsp ∧ u.stackErr = s.stackErr ∧
      (∀ j, j < 6 → u.rs.getLsbD j = s.rs.getLsbD j)) ∧
    (∀ (t u : State) (k : Nat), step s = .next t →
      StepsWhile (fun x => s.isp.val < x.isp.val ∧ s.dsp.val < x.dsp.val) k t u →
      u.AboutToRun .rti → u.isp.val = s.isp.val + 1 → u.dsp.val = s.dsp.val + 1 →
        ∃ v, step u = .next v ∧ v.pc = s.pc ∧ v.isp = s.isp ∧ v.dsp = s.dsp ∧
          (∀ j, j < 6 → v.rs.getLsbD j = s.rs.getLsbD j))

/-- R259, R260: a waiting or stopped core fetches nothing. When a source is pending and enabled its next step enters one
such; with none it only lets the boundary pass (the idle step is log entry 12's, where R260 has no step). -/
def Obligations.WaitingCoreOnlyEnters : Prop :=
  (∀ s t : State, s.run ≠ .running → step s = .next t →
    ((∀ src, ¬ s.CanEnter src) ∧ t = { s with tick := s.tick + 1, env := s.env.tail }) ∨
    (∃ src, s.accepted = some src ∧ s.CanEnter src ∧
      (s.isp ≠ 7 → s.dsp ≠ 15 → t.run = .running ∧ t.pc = s.vector src))) ∧
  (∀ (s : State) (src : IntSource), s.run ≠ .running → s.CanEnter src → s.isp ≠ 7 → s.dsp ≠ 15 →
    ∃ t src', step s = .next t ∧ s.CanEnter src' ∧ t.run = .running ∧ t.pc = s.vector src')

/-- Every step keeps the invariant: both memories canonical, data bytes only in RAM inside the address space, service
registers without unimplemented bits, the record of handlers (log entry 15) without repeats. -/
def Obligations.StepKeepsInv : Prop :=
  ∀ s t : State, s.Inv → step s = .next t → t.Inv

/-- The invariant holds after reset. -/
def Obligations.ResetHasInv : Prop :=
  State.reset.Inv ∧ Platform.Bounded State.reset.platform

/-- Any number of steps keeps the invariant, the program text and the platform. -/
def Obligations.RunKeepsInv : Prop :=
  ∀ (k : Nat) (s t : State), s.Inv → Host.Core.run Sys2Proof.core k s = .next t →
    t.Inv ∧ t.pmem = s.pmem ∧ t.platform = s.platform

/-- R65 (D29), R35: no step writes program memory (nor the platform's parameters, log entry 2), so a fetch returns the
program text's word. -/
def Obligations.NoStepWritesProgramMemory : Prop :=
  ∀ s t : State, step s = .next t →
    t.pmem = s.pmem ∧ t.platform = s.platform ∧ ∀ a, Memory.read t.pmem a = Memory.read s.pmem a

/-- R14, last sentence: only SST, CST, WAIT, STOP and RTI change IE; only RTI changes RS[7:6]. -/
def Obligations.OnlyListedInstructionsChangeIe : Prop :=
  ∀ (i : Instr) (s t : State), exec i s = .next t →
    (t.rs.getLsbD 3 ≠ s.rs.getLsbD 3 →
      (∃ m, i = .sst m) ∨ (∃ m, i = .cst m) ∨ i = .wait ∨ i = .stop ∨ i = .rti) ∧
    ((t.rs.getLsbD 6 ≠ s.rs.getLsbD 6 ∨ t.rs.getLsbD 7 ≠ s.rs.getLsbD 7) → i = .rti)

/-- R22: segment registers are changed only by LDR, MTPR and POP, and only the one they name. The same of #4..#7 is log
entry 7's choice: R23 leaves open whether an addressing mode steps them. -/
def Obligations.OnlyLdrMtprPopWriteServiceRegisters : Prop :=
  ∀ (i : Instr) (s t : State) (n : SvcReg), exec i s = .next t → t.sr.get n ≠ s.sr.get n →
    (∃ k, i = .ldr n k) ∨ (∃ o, i = .mtpr n o) ∨ i = .pop n

/-- R32: the stack-error request is set exactly by the conditions of R11 and R241 (some of them by D25; that the
machine goes on is log entry 9), held, and cleared by RESET only; while it is set the stack-error interrupt is pending. -/
def Obligations.StackErrorIsLatchedUntilReset : Prop :=
  (∀ (i : Instr) (s t : State), exec i s = .next t →
    t.stackErr = (if i = .reset then false else s.stackErr || stackErrorCause s i)) ∧
  (∀ s : State, s.isPending .stackError = s.stackErr)

/-- R30, R31: without a stack error, ISP and DSP move by one under the calls, returns, pushes and pops, and under no
other instruction but RESET. -/
def Obligations.StackPointersMoveByOne : Prop :=
  ∀ (i : Instr) (s t : State), exec i s = .next t → stackErrorCause s i = false → i ≠ .reset →
    (t.isp.val : Int) = s.isp.val + ispMove i ∧ (t.dsp.val : Int) = s.dsp.val + dspMove i

/-- Only WAIT and STOP leave the running state, and no instruction changes the program, the platform, the input or
the model's own records. -/
def Obligations.InstructionsLeaveTheWorldAlone : Prop :=
  ∀ (i : Instr) (s t : State), exec i s = .next t →
    (t.run ≠ s.run → i = .wait ∨ i = .stop) ∧ t.pmem = s.pmem ∧ t.platform = s.platform ∧ t.env = s.env ∧
    t.tick = s.tick ∧ t.handlers = s.handlers

/-- R57: instructions that write no data operand leave every byte of memory, and those without a data operand also
make no device access. -/
def Obligations.OnlyDataWritersTouchMemory : Prop :=
  ∀ (i : Instr) (s t : State), exec i s = .next t →
    (writesNoData i = true → ∀ a, Memory.read t.mem a = Memory.read s.mem a) ∧
    (dataOperands i = [] → t.bus = s.bus)

/-- R68 (log entry 20): an instruction is refused, by name, exactly when one of its operands' addresses is not defined
by the data map; otherwise it completes. That these complete too is the model's choice, where the spec refuses or
faults: IJMP and IJSR (log entry 8), a stack error (9), RESET first in a handler (15), an operand after #4..#7 was
loaded (7), a read of RAM never written (3). -/
def Obligations.ExecutesUnlessAnOperandIsAbsent : Prop :=
  ∀ (i : Instr) (s : State),
    ((∀ p ∈ dataOperands i, s.kind (s.ea p.1 p.2) ≠ .absent) → ∃ t, exec i s = .next t) ∧
    ((∃ p ∈ dataOperands i, s.kind (s.ea p.1 p.2) = .absent) → exec i s = .refused .undefinedDataAddress)

/-- R51, R22: the address is the segment register's value with the index concatenated, modulo 2^DADDR_BITS (while no
indirect register has been loaded; log entry 7); the segment register is SRn with n bits 4:3 of the operand's field, the
index its bits 2:0. R36: what an address is follows the data map; of two regions the first
decides, and an address no region covers is RAM (log entry 2). -/
def Obligations.EffectiveAddress : Prop :=
  (∀ (s : State) (role : Role) (o : Operand), s.indirectLoaded = false →
    s.ea role o = (s.sr.get (segReg o.seg) ++ o.idx).toNat % 2 ^ s.platform.daddrBits ∧
    s.ea role o = ((s.sr.get (segReg o.seg)).toNat * 8 + o.idx.toNat) % 2 ^ s.platform.daddrBits ∧
    (∀ n : SvcReg, n.val = o.bits.toNat / 8 →
      s.ea role o = ((s.sr.get n).toNat * 8 + o.bits.toNat % 8) % 2 ^ s.platform.daddrBits)) ∧
  (∀ (s : State) (a : Nat) (r : DataRegion) (before after : List DataRegion),
    s.platform.dataMap = before ++ r :: after → (∀ q ∈ before, ¬(q.base ≤ a ∧ a < q.base + q.size)) →
    r.base ≤ a → a < r.base + r.size → s.kind a = r.kind) ∧
  (∀ (s : State) (a : Nat), (∀ q ∈ s.platform.dataMap, ¬(q.base ≤ a ∧ a < q.base + q.size)) → s.kind a = .ram)

/-- R59, R62: a RAM byte reads as the last value stored, and no other byte changes. -/
def Obligations.RamReadsTheLastWrite : Prop :=
  ∀ (s : State) (role : Role) (a : Nat) (v : Byte), s.kind a = .ram →
    (s.storeCell a v).cellValue role a = v ∧
    (∀ b, b ≠ a → (s.storeCell a v).cellValue role b = s.cellValue role b) ∧
    (s.storeCell a v).bus = s.bus

/-- R58 (D17; log entry 6): two reads of peripheral registers come in either order; one register that is both operands
is read once, and then gives both the same byte, or twice. A RAM operand is read without an event, and gives the same
byte to either role. -/
def Obligations.OperandPairReads : Prop :=
  (∀ (s : State) (sa da : Nat), s.kind sa = .device → s.kind da = .device → sa ≠ da →
    (s.pairEvents sa da = [.read sa, .read da] ∨ s.pairEvents sa da = [.read da, .read sa]) ∧
    s.pairDst sa da = s.cellValue .dst da) ∧
  (∀ (s : State) (a : Nat), s.kind a = .device →
    (s.pairEvents a a = [.read a, .read a] ∧ s.pairDst a a = s.cellValue .dst a) ∨
    (s.pairEvents a a = [.read a] ∧ s.pairDst a a = s.cellValue .src a)) ∧
  (∀ (s : State) (sa da : Nat), s.kind sa = .ram → s.kind da = .device →
    s.pairEvents sa da = [.read da] ∧ s.pairDst sa da = s.cellValue .dst da) ∧
  (∀ (s : State) (sa da : Nat), s.kind da = .ram →
    s.pairEvents sa da = s.readEvents sa ∧ s.pairDst sa da = s.cellValue .dst da ∧
      s.cellValue .src da = s.cellValue .dst da) ∧
  (∀ (s : State) (a : Nat), (s.kind a = .device → s.readEvents a = [.read a]) ∧ (s.kind a = .ram → s.readEvents a = []))

/-- R67: a pop gives what the matching push put there, and the pointer is back: at once (exec), or over the steps of a
run, whatever is pushed and popped between, interrupts included, as long as the pointer stays above the push's. -/
def Obligations.PopGivesWhatPushSaved : Prop :=
  (∀ (s : State) (n m : SvcReg), s.dsp ≠ 15 → ∃ t u, exec (.push n) s = .next t ∧ exec (.pop m) t = .next u ∧
    u.sr.get m = (s.readSr n &&& s.platform.srMask.get m) ∧ (∀ k, k ≠ m → u.sr.get k = s.sr.get k) ∧
    u.dsp = s.dsp ∧ u.rs = s.rs ∧ u.pc = s.pc + 2) ∧
  (∀ (s : State) (a : PAddr), s.isp ≠ 7 → ∃ t u, exec (.jsr a) s = .next t ∧ exec .rts t = .next u ∧
    u.pc = s.pc + 1 ∧ u.isp = s.isp ∧ u.rs = s.rs) ∧
  (∀ (s t u : State) (n m : SvcReg) (k : Nat), s.AboutToRun (.push n) → s.dsp ≠ 15 → step s = .next t →
    StepsWhile (fun x => s.dsp.val < x.dsp.val) k t u → u.AboutToRun (.pop m) → u.dsp.val = s.dsp.val + 1 →
      ∃ v, step u = .next v ∧ v.sr.get m = (s.readSr n &&& s.platform.srMask.get m) ∧
        (∀ j, j ≠ m → v.sr.get j = u.sr.get j) ∧ v.dsp = s.dsp ∧ v.rs = u.rs ∧ v.pc = u.pc + 1) ∧
  (∀ (s t u : State) (call ret : Instr) (k : Nat), ((∃ a, call = .jsr a) ∨ call = .ijsr) →
    (ret = .rts ∨ ∃ c, ret = .rtsc c) → s.AboutToRun call → s.isp ≠ 7 → step s = .next t →
    StepsWhile (fun x => s.isp.val < x.isp.val) k t u → u.AboutToRun ret → u.isp.val = s.isp.val + 1 →
      ∃ v, step u = .next v ∧ v.pc = s.pc + 1 ∧ v.isp = s.isp)

/-- D24 (log entry 12): a finished run is at a JMP to itself with IE = 0, whatever is pending, or at WAIT or STOP with no
source ever pending. A step that accepts nothing leaves it finished and changes no more than the model's counter and
input; only a pending source that IE does not gate, let in by an input that is
left, can be accepted there, and only at the JMP. Without such sources the run
stays finished for any number of steps. -/
def Obligations.EndedRunStaysEnded : Prop :=
  (∀ s : State, s.ended ↔
    (s.run = .running ∧ s.rs.getLsbD 3 = false ∧ s.fetchInstr = .next (.jmp s.pc)) ∨
    ((s.run = .waiting ∨ s.run = .stopped) ∧ s.stackErr = false ∧ ∀ b ∈ s.env, b.pending = [])) ∧
  (∀ s : State, s.ended → s.accepted = none →
    ∃ t, step s = .next t ∧ t.ended ∧ t = { s with tick := s.tick + 1, env := s.env.tail }) ∧
  (∀ (s : State) (src : IntSource), s.ended → s.accepted = some src →
    s.run = .running ∧ src ∈ s.platform.ungated ∧ s.isPending src = true ∧ s.env ≠ []) ∧
  (∀ (s : State) (k : Nat), s.ended → s.platform.ungated = [] →
    ∃ t : State, Host.Core.run Sys2Proof.core k s = .next t ∧ t.ended ∧
      t = { s with tick := s.tick + k, env := s.env.drop k })

/-- R40, rows ISP, DSP, stack_err and run (D20). That both memories have nothing listed is the model's (log entries 3
and 4: R40 leaves data RAM unspecified, the program is loaded from outside); the other registers' values are log entry
1's and not stated. -/
def Obligations.ResetState : Prop :=
  State.reset.isp = 0 ∧ State.reset.dsp = 0 ∧ State.reset.stackErr = false ∧ State.reset.run = .running ∧
    State.reset.mem = [] ∧ State.reset.pmem = []

/-! ## Two-operand instructions -/

/-- R111. -/
def Obligations.MovResult : Prop :=
  ∀ (dst src : Operand) (s : State),
    Encoded (0x0400 + src.bits.toNat * 32 + dst.bits.toNat) (.mov dst src) ∧
    (s.kind (s.ea .src src) ≠ .absent → s.kind (s.ea .dst dst) ≠ .absent →
      ∃ t, exec (.mov dst src) s = .next t ∧
        Stores s t (s.readEvents (s.ea .src src)) (s.ea .dst dst) (s.cellValue .src (s.ea .src src)) ∧
        RsAfterMove s.rs t.rs (s.cellValue .src (s.ea .src src)) ∧ DataFrame s t)

/-- R112: no write (D16; log entry 25), OF by OF_SUB_RULE (C3, D10; log entry 17). -/
def Obligations.CmpResult : Prop :=
  ∀ (dst src : Operand) (s : State),
    Encoded (0x0800 + src.bits.toNat * 32 + dst.bits.toNat) (.cmp dst src) ∧
    (s.kind (s.ea .src src) ≠ .absent → s.kind (s.ea .dst dst) ≠ .absent →
      ∃ t, exec (.cmp dst src) s = .next t ∧
        StoresNothing s t (s.pairEvents (s.ea .src src) (s.ea .dst dst)) ∧
        RsAfterSub s.platform.ofSubRule s.rs t.rs (s.pairDst (s.ea .src src) (s.ea .dst dst)) (s.cellValue .src (s.ea .src src)) false ∧
        DataFrame s t)

/-- R113. -/
def Obligations.AddResult : Prop :=
  ∀ (dst src : Operand) (s : State),
    Encoded (0x1000 + src.bits.toNat * 32 + dst.bits.toNat) (.add dst src) ∧
    (s.kind (s.ea .src src) ≠ .absent → s.kind (s.ea .dst dst) ≠ .absent →
      ∃ t, exec (.add dst src) s = .next t ∧
        Stores s t (s.pairEvents (s.ea .src src) (s.ea .dst dst)) (s.ea .dst dst)
          (s.pairDst (s.ea .src src) (s.ea .dst dst) + s.cellValue .src (s.ea .src src)) ∧
        RsAfterAdd s.rs t.rs (s.pairDst (s.ea .src src) (s.ea .dst dst)) (s.cellValue .src (s.ea .src src)) false ∧
        DataFrame s t)

/-- R114 (OF by OF_SUB_RULE: conflict C3, D10; log entry 17). -/
def Obligations.SubResult : Prop :=
  ∀ (dst src : Operand) (s : State),
    Encoded (0x0C00 + src.bits.toNat * 32 + dst.bits.toNat) (.sub dst src) ∧
    (s.kind (s.ea .src src) ≠ .absent → s.kind (s.ea .dst dst) ≠ .absent →
      ∃ t, exec (.sub dst src) s = .next t ∧
        Stores s t (s.pairEvents (s.ea .src src) (s.ea .dst dst)) (s.ea .dst dst)
          (s.pairDst (s.ea .src src) (s.ea .dst dst) - s.cellValue .src (s.ea .src src)) ∧
        RsAfterSub s.platform.ofSubRule s.rs t.rs (s.pairDst (s.ea .src src) (s.ea .dst dst)) (s.cellValue .src (s.ea .src src)) false ∧
        DataFrame s t)

/-- R115, R116, R117. -/
def Obligations.AndOrXorResult : Prop :=
  ∀ (dst src : Operand) (s : State),
    Encoded (0x1400 + src.bits.toNat * 32 + dst.bits.toNat) (.and dst src) ∧
    Encoded (0x1800 + src.bits.toNat * 32 + dst.bits.toNat) (.or dst src) ∧
    Encoded (0x1C00 + src.bits.toNat * 32 + dst.bits.toNat) (.xor dst src) ∧
    (s.kind (s.ea .src src) ≠ .absent → s.kind (s.ea .dst dst) ≠ .absent →
      ∀ (i : Instr) (r : Byte),
        ((i, r) = (.and dst src, s.pairDst (s.ea .src src) (s.ea .dst dst) &&& s.cellValue .src (s.ea .src src)) ∨
          (i, r) = (.or dst src, s.pairDst (s.ea .src src) (s.ea .dst dst) ||| s.cellValue .src (s.ea .src src)) ∨
          (i, r) = (.xor dst src, s.pairDst (s.ea .src src) (s.ea .dst dst) ^^^ s.cellValue .src (s.ea .src src))) →
        ∃ t, exec i s = .next t ∧
          Stores s t (s.pairEvents (s.ea .src src) (s.ea .dst dst)) (s.ea .dst dst) r ∧
          RsAfterLogic s.rs t.rs r ∧ DataFrame s t)

/-! ## Literal instructions -/

/-- R131: dst is not read first (D16; log entry 25). -/
def Obligations.MovlResult : Prop :=
  ∀ (dst : Operand) (k : Byte) (s : State),
    Encoded (0x4000 + k.toNat * 32 + dst.bits.toNat) (.movl dst k) ∧
    (s.kind (s.ea .dst dst) ≠ .absent →
      ∃ t, exec (.movl dst k) s = .next t ∧ Stores s t [] (s.ea .dst dst) k ∧
        RsAfterMove s.rs t.rs k ∧ DataFrame s t)

/-- R132, R138: flags only, the operand is not written (D16; log entry 25); CMPL's OF by OF_SUB_RULE (D10; log entry
17). -/
def Obligations.CmplBttResults : Prop :=
  (∀ (dst : Operand) (k : Byte) (s : State),
    Encoded (0x6000 + k.toNat * 32 + dst.bits.toNat) (.cmpl dst k) ∧
    (s.kind (s.ea .dst dst) ≠ .absent →
      ∃ t, exec (.cmpl dst k) s = .next t ∧ StoresNothing s t (s.readEvents (s.ea .dst dst)) ∧
        RsAfterSub s.platform.ofSubRule s.rs t.rs (s.cellValue .dst (s.ea .dst dst)) k false ∧ DataFrame s t)) ∧
  (∀ (dst : Operand) (p : Place) (k : BitVec 4) (s : State),
    Encoded (0x3400 + p.bit * 512 + k.toNat * 32 + dst.bits.toNat) (.btt dst p k) ∧
    (s.kind (s.ea .dst dst) ≠ .absent →
      ∀ lit : Byte, lit.toNat = (if p = .low then k.toNat else k.toNat * 16) →
        ∃ t, exec (.btt dst p k) s = .next t ∧ StoresNothing s t (s.readEvents (s.ea .dst dst)) ∧
          RsAfterLogic s.rs t.rs (s.cellValue .dst (s.ea .dst dst) &&& lit) ∧ DataFrame s t))

/-- R133. -/
def Obligations.AddlResult : Prop :=
  ∀ (dst : Operand) (k : BitVec 5) (s : State),
    Encoded (0x3000 + k.toNat * 32 + dst.bits.toNat) (.addl dst k) ∧
    (s.kind (s.ea .dst dst) ≠ .absent →
      ∃ t, exec (.addl dst k) s = .next t ∧
        Stores s t (s.readEvents (s.ea .dst dst)) (s.ea .dst dst)
          (s.cellValue .dst (s.ea .dst dst) + BitVec.ofNat 8 k.toNat) ∧
        RsAfterAdd s.rs t.rs (s.cellValue .dst (s.ea .dst dst)) (BitVec.ofNat 8 k.toNat) false ∧ DataFrame s t)

/-- R134: the subtrahend is the literal (C15), OF by OF_SUB_RULE (C3, D10; log entry 17). -/
def Obligations.SublResult : Prop :=
  ∀ (dst : Operand) (k : BitVec 5) (s : State),
    Encoded (0x2C00 + k.toNat * 32 + dst.bits.toNat) (.subl dst k) ∧
    (s.kind (s.ea .dst dst) ≠ .absent →
      ∃ t, exec (.subl dst k) s = .next t ∧
        Stores s t (s.readEvents (s.ea .dst dst)) (s.ea .dst dst)
          (s.cellValue .dst (s.ea .dst dst) - BitVec.ofNat 8 k.toNat) ∧
        RsAfterSub s.platform.ofSubRule s.rs t.rs (s.cellValue .dst (s.ea .dst dst)) (BitVec.ofNat 8 k.toNat) false ∧ DataFrame s t)

/-- R135 to R137: tconst in the tetrad p names; each result bit by bit. -/
def Obligations.BitLiteralResults : Prop :=
  ∀ (dst : Operand) (p : Place) (k : BitVec 4) (s : State),
    Encoded (0x2800 + p.bit * 512 + k.toNat * 32 + dst.bits.toNat) (.bic dst p k) ∧
    Encoded (0x3800 + p.bit * 512 + k.toNat * 32 + dst.bits.toNat) (.bis dst p k) ∧
    Encoded (0x3C00 + p.bit * 512 + k.toNat * 32 + dst.bits.toNat) (.btg dst p k) ∧
    (s.kind (s.ea .dst dst) ≠ .absent →
      ∀ lit : Byte, lit.toNat = (if p = .low then k.toNat else k.toNat * 16) →
        ∀ (i : Instr) (r : Byte),
          ((i = .bic dst p k ∧ ∀ j, j < 8 →
              r.getLsbD j = ((s.cellValue .dst (s.ea .dst dst)).getLsbD j && !lit.getLsbD j)) ∨
            (i = .bis dst p k ∧ ∀ j, j < 8 →
              r.getLsbD j = ((s.cellValue .dst (s.ea .dst dst)).getLsbD j || lit.getLsbD j)) ∨
            (i = .btg dst p k ∧ ∀ j, j < 8 →
              r.getLsbD j = ((s.cellValue .dst (s.ea .dst dst)).getLsbD j ^^ lit.getLsbD j))) →
          ∃ t, exec i s = .next t ∧ Stores s t (s.readEvents (s.ea .dst dst)) (s.ea .dst dst) r ∧
            RsAfterLogic s.rs t.rs r ∧ DataFrame s t)

/-! ## One-operand instructions -/

/-- R151, R153. That NOT keeps C and DC is the spec's choice between its sources (conflict C8, U9; log entry 17). -/
def Obligations.SwapNotResult : Prop :=
  ∀ (dst : Operand) (s : State),
    Encoded (0x0020 + dst.bits.toNat) (.swap dst) ∧ Encoded (0x0060 + dst.bits.toNat) (.not dst) ∧
    (s.kind (s.ea .dst dst) ≠ .absent →
      (∃ t r, exec (.swap dst) s = .next t ∧
        (∀ j, j < 4 → r.getLsbD (j + 4) = (s.cellValue .dst (s.ea .dst dst)).getLsbD j ∧
          r.getLsbD j = (s.cellValue .dst (s.ea .dst dst)).getLsbD (j + 4)) ∧
        Stores s t (s.readEvents (s.ea .dst dst)) (s.ea .dst dst) r ∧ RsAfterLogic s.rs t.rs r ∧ DataFrame s t) ∧
      (∃ t r, exec (.not dst) s = .next t ∧
        (∀ j, j < 8 → r.getLsbD j = !(s.cellValue .dst (s.ea .dst dst)).getLsbD j) ∧
        Stores s t (s.readEvents (s.ea .dst dst)) (s.ea .dst dst) r ∧ RsAfterMove s.rs t.rs r ∧ DataFrame s t))

/-- R152: the flags are those of 0 - dst (D32; log entry 17), with the rule's consequences for C and DC, and for OF
under each value of OF_SUB_RULE (D10). -/
def Obligations.NegResult : Prop :=
  ∀ (dst : Operand) (s : State),
    Encoded (0x0040 + dst.bits.toNat) (.neg dst) ∧
    (s.kind (s.ea .dst dst) ≠ .absent →
      ∀ v : Byte, v = s.cellValue .dst (s.ea .dst dst) →
        ∃ t, exec (.neg dst) s = .next t ∧
          Stores s t (s.readEvents (s.ea .dst dst)) (s.ea .dst dst) (BitVec.ofNat 8 ((256 - v.toNat) % 256)) ∧
          RsIs s.rs t.rs (decide (v ≠ 0)) (decide (v = 0)) ((-v).getLsbD 7)
            (if s.platform.ofSubRule = .signedOverflow then decide (v = 0x80)
              else decide (1 ≤ v.toNat ∧ v.toNat < 0x80))
            (decide (v.toNat % 16 ≠ 0)) ∧
          DataFrame s t)

/-- R154, R157: bit n moves to bit n+1, 0 or the old C enters bit 0; C is the old bit 7, OF the change of sign (D11; log
entry 17). -/
def Obligations.ShiftLeftResults : Prop :=
  ∀ (dst : Operand) (s : State),
    Encoded (0x0080 + dst.bits.toNat) (.shl dst) ∧ Encoded (0x00E0 + dst.bits.toNat) (.rlc dst) ∧
    (s.kind (s.ea .dst dst) ≠ .absent →
      ∀ (i : Instr) (inBit : Bool), ((i, inBit) = (.shl dst, false) ∨ (i, inBit) = (.rlc dst, s.rs.getLsbD 0)) →
        ∀ v : Byte, v = s.cellValue .dst (s.ea .dst dst) →
          ∃ t r, exec i s = .next t ∧
            (∀ j, j < 7 → r.getLsbD (j + 1) = v.getLsbD j) ∧ r.getLsbD 0 = inBit ∧
            Stores s t (s.readEvents (s.ea .dst dst)) (s.ea .dst dst) r ∧
            RsIs s.rs t.rs (v.getLsbD 7) (decide (r = 0)) (v.getLsbD 6) (v.getLsbD 7 != v.getLsbD 6) false ∧
            DataFrame s t)

/-- R155, R156, R158: bit n+1 moves to bit n; 0, the old bit 7 or the old C enters bit 7; C is the old bit 0. -/
def Obligations.ShiftRightResults : Prop :=
  ∀ (dst : Operand) (s : State),
    Encoded (0x00A0 + dst.bits.toNat) (.shr dst) ∧ Encoded (0x00C0 + dst.bits.toNat) (.shra dst) ∧
    Encoded (0x0100 + dst.bits.toNat) (.rrc dst) ∧
    (s.kind (s.ea .dst dst) ≠ .absent →
      ∀ v : Byte, v = s.cellValue .dst (s.ea .dst dst) →
        ∀ (i : Instr) (inBit : Bool),
          ((i, inBit) = (.shr dst, false) ∨ (i, inBit) = (.shra dst, v.getLsbD 7) ∨
            (i, inBit) = (.rrc dst, s.rs.getLsbD 0)) →
          ∃ t r, exec i s = .next t ∧
            (∀ j, j < 7 → r.getLsbD j = v.getLsbD (j + 1)) ∧ r.getLsbD 7 = inBit ∧
            Stores s t (s.readEvents (s.ea .dst dst)) (s.ea .dst dst) r ∧
            RsIs s.rs t.rs (v.getLsbD 0) (decide (r = 0)) inBit false false ∧ DataFrame s t)

/-- R159, R160: the flags are those of dst + C and dst - C (D33; log entry 17), SBC's OF by OF_SUB_RULE (D10). -/
def Obligations.AdcSbcResult : Prop :=
  ∀ (dst : Operand) (s : State),
    Encoded (0x0120 + dst.bits.toNat) (.adc dst) ∧ Encoded (0x0140 + dst.bits.toNat) (.sbc dst) ∧
    (s.kind (s.ea .dst dst) ≠ .absent →
      ∀ v : Byte, v = s.cellValue .dst (s.ea .dst dst) →
        (∃ t, exec (.adc dst) s = .next t ∧
          Stores s t (s.readEvents (s.ea .dst dst)) (s.ea .dst dst) (if s.rs.getLsbD 0 then v + 1 else v) ∧
          RsAfterAdd s.rs t.rs v 0 (s.rs.getLsbD 0) ∧ DataFrame s t) ∧
        (∃ t, exec (.sbc dst) s = .next t ∧
          Stores s t (s.readEvents (s.ea .dst dst)) (s.ea .dst dst) (if s.rs.getLsbD 0 then v - 1 else v) ∧
          RsAfterSub s.platform.ofSubRule s.rs t.rs v 0 (s.rs.getLsbD 0) ∧ DataFrame s t))

/-! ## Service and status registers -/

/-- R171: the implemented bits of #n get the literal (R21); loading one of #4..#7 also sets the model's mark (log
entry 7); nothing else changes. -/
def Obligations.LdrResult : Prop :=
  ∀ (n : SvcReg) (k : Byte) (s : State),
    Encoded (0x2000 + (k.toNat * 8 + n.val)) (.ldr n k) ∧
    ∃ t, exec (.ldr n k) s = .next t ∧
      t.sr.get n = (k &&& s.platform.srMask.get n) ∧ (∀ m, m ≠ n → t.sr.get m = s.sr.get m) ∧
      t.indirectLoaded = (s.indirectLoaded || decide (4 ≤ n.val)) ∧
      t = { s with pc := s.pc + 1, sr := t.sr, indirectLoaded := t.indirectLoaded }

/-- R172: the operand is read at the address the old registers give, then #n gets its implemented bits; RS unchanged. -/
def Obligations.MtprResult : Prop :=
  ∀ (n : SvcReg) (src : Operand) (s : State),
    Encoded (0x0200 + n.val * 32 + src.bits.toNat) (.mtpr n src) ∧
    (s.kind (s.ea .src src) ≠ .absent →
      ∃ t, exec (.mtpr n src) s = .next t ∧
        t.sr.get n = (s.cellValue .src (s.ea .src src) &&& s.platform.srMask.get n) ∧
        (∀ m, m ≠ n → t.sr.get m = s.sr.get m) ∧
        t.indirectLoaded = (s.indirectLoaded || decide (4 ≤ n.val)) ∧
        t.bus = s.bus ++ s.readEvents (s.ea .src src) ∧
        t = { s with pc := s.pc + 1, sr := t.sr, indirectLoaded := t.indirectLoaded, bus := t.bus })

/-- R173: the register's implemented bits are stored (D4; log entry 16); dst is not read (D16; log entry 25); RS
unchanged. -/
def Obligations.MfprResult : Prop :=
  ∀ (dst : Operand) (n : SvcReg) (s : State),
    Encoded (0x0300 + n.val * 32 + dst.bits.toNat) (.mfpr dst n) ∧
    (s.kind (s.ea .dst dst) ≠ .absent →
      ∃ t v, exec (.mfpr dst n) s = .next t ∧
        (∀ j, j < 8 → (s.platform.srMask.get n).getLsbD j = true → v.getLsbD j = (s.sr.get n).getLsbD j) ∧
        Stores s t [] (s.ea .dst dst) v ∧ t.rs = s.rs ∧ DataFrame s t)

/-- R174: the push and its frame below the limit: the byte pushed agrees with the register on its implemented bits, the
others are left open (D4; log entry 16). At DSP = 15 the stack error: the request, what the rule leaves open
only in DSP and the cell (log entry 9), and pc at the next word all the same (log entry 10). -/
def Obligations.PushResult : Prop :=
  ∀ (n : SvcReg) (s : State),
    Encoded (0x0010 + n.val) (.push n) ∧
    (s.dsp ≠ 15 → ∃ t v, exec (.push n) s = .next t ∧
      (∀ j, j < 8 → (s.platform.srMask.get n).getLsbD j = true → v.getLsbD j = (s.sr.get n).getLsbD j) ∧
      t.dstack.get s.dsp = v ∧ (∀ k, k ≠ s.dsp → t.dstack.get k = s.dstack.get k) ∧
      t.dsp.val = s.dsp.val + 1 ∧ t = { s with pc := s.pc + 1, dstack := t.dstack, dsp := t.dsp }) ∧
    (s.dsp = 15 → ∃ t, exec (.push n) s = .next t ∧ t.stackErr = true ∧
      (∀ k, k ≠ s.dsp → t.dstack.get k = s.dstack.get k) ∧
      t = { s with pc := s.pc + 1, dstack := t.dstack, dsp := t.dsp, stackErr := true })

/-- R175: the pop and its frame; at DSP = 0 the stack error (log entry 9), and pc at the next word all the same (log
entry 10). -/
def Obligations.PopResult : Prop :=
  ∀ (n : SvcReg) (s : State),
    Encoded (0x0018 + n.val) (.pop n) ∧
    (s.dsp ≠ 0 → ∃ t, exec (.pop n) s = .next t ∧ t.dsp.val + 1 = s.dsp.val ∧
      t.sr.get n = (s.dstack.get t.dsp &&& s.platform.srMask.get n) ∧
      (∀ m, m ≠ n → t.sr.get m = s.sr.get m) ∧
      t = { s with pc := s.pc + 1, sr := t.sr, dsp := t.dsp,
                   indirectLoaded := s.indirectLoaded || decide (4 ≤ n.val) }) ∧
    (s.dsp = 0 → ∃ t, exec (.pop n) s = .next t ∧ t.stackErr = true ∧
      (∀ m, m ≠ n → t.sr.get m = s.sr.get m) ∧
      t = { s with pc := s.pc + 1, sr := t.sr, dsp := t.dsp, stackErr := true,
                   indirectLoaded := s.indirectLoaded || decide (4 ≤ n.val) })

/-- R176, R177: bits 3:0 under the mask, bits 7:4 unchanged, nothing else but pc. -/
def Obligations.SstCstResult : Prop :=
  ∀ (m : BitVec 4) (s : State),
    Encoded (0x0180 + m.toNat) (.sst m) ∧ Encoded (0x01C0 + m.toNat) (.cst m) ∧
    (∃ t, exec (.sst m) s = .next t ∧ t = { s with pc := s.pc + 1, rs := t.rs } ∧
      ∀ j, t.rs.getLsbD j = if j < 4 ∧ m.getLsbD j then true else s.rs.getLsbD j) ∧
    (∃ t, exec (.cst m) s = .next t ∧ t = { s with pc := s.pc + 1, rs := t.rs } ∧
      ∀ j, t.rs.getLsbD j = if j < 4 ∧ m.getLsbD j then false else s.rs.getLsbD j)

/-- R178, R179: Z takes OF or DC; no other bit of RS changes. -/
def Obligations.TofTdcResult : Prop :=
  Encoded 0x0004 .tof ∧ Encoded 0x0005 .tdc ∧
  ∀ s : State,
    (∃ t, exec .tof s = .next t ∧ t = { s with pc := s.pc + 1, rs := t.rs } ∧
      ∀ j, t.rs.getLsbD j = if j = 1 then s.rs.getLsbD 4 else s.rs.getLsbD j) ∧
    (∃ t, exec .tdc s = .next t ∧ t = { s with pc := s.pc + 1, rs := t.rs } ∧
      ∀ j, t.rs.getLsbD j = if j = 1 then s.rs.getLsbD 5 else s.rs.getLsbD j)

/-! ## Control transfer -/

/-- R191, R193 to R198. -/
def Obligations.JumpResults : Prop :=
  ∀ (a : PAddr) (s : State),
    Encoded (0x8000 + a.toNat) (.jmp a) ∧ Encoded (0xA000 + a.toNat) (.jz a) ∧ Encoded (0xB000 + a.toNat) (.jnz a) ∧
    Encoded (0xC000 + a.toNat) (.jns a) ∧ Encoded (0xD000 + a.toNat) (.js a) ∧ Encoded (0xE000 + a.toNat) (.jnc a) ∧
    Encoded (0xF000 + a.toNat) (.jc a) ∧
    exec (.jmp a) s = .next { s with pc := a } ∧
    (∀ (i : Instr) (b : Nat) (want : Bool),
      ((i, b, want) = (.jz a, 1, true) ∨ (i, b, want) = (.jnz a, 1, false) ∨ (i, b, want) = (.js a, 2, true) ∨
        (i, b, want) = (.jns a, 2, false) ∨ (i, b, want) = (.jc a, 0, true) ∨ (i, b, want) = (.jnc a, 0, false)) →
      exec i s = .next { s with pc := if s.rs.getLsbD b = want then a else s.pc + 1 })

/-- R192, R200 (IR1's 10 bits are `s.ir1`, an uninterpreted function of the service registers: log entry 8, where the
spec refuses IJSR without IR1_value): the return address pushed and the jump taken below ISP = 7; at ISP = 7 the stack
error (log entry 9: whether it jumps, ISP and the cell are left open). -/
def Obligations.CallResults : Prop :=
  ∀ (a : PAddr) (s : State),
    Encoded (0x9000 + a.toNat) (.jsr a) ∧ Encoded 0x0007 .ijsr ∧
    ∀ (i : Instr) (target : PAddr), ((i, target) = (.jsr a, a) ∨ (i, target) = (.ijsr, s.ir1)) →
      (s.isp ≠ 7 → ∃ t, exec i s = .next t ∧
        t.istack.get s.isp = s.pc + 1 ∧ (∀ k, k ≠ s.isp → t.istack.get k = s.istack.get k) ∧
        t.isp.val = s.isp.val + 1 ∧ t = { s with pc := target, istack := t.istack, isp := t.isp }) ∧
      (s.isp = 7 → ∃ t, exec i s = .next t ∧ t.stackErr = true ∧ (t.pc = target ∨ t.pc = s.pc + 1) ∧
        (∀ k, k ≠ s.isp → t.istack.get k = s.istack.get k) ∧
        t = { s with pc := t.pc, istack := t.istack, isp := t.isp, stackErr := true })

/-- R199: IJMP loads pc from IR1 and changes nothing else, IR1 included. That it completes in every state, with IR1 an
uninterpreted function of the service registers, is log entry 8's choice: without IR1_value the spec refuses IJMP (D7). -/
def Obligations.IjmpResult : Prop :=
  Encoded 0x0003 .ijmp ∧ ∀ s : State, ∃ t, exec .ijmp s = .next t ∧ t = { s with pc := s.ir1 } ∧ t.ir1 = s.ir1

/-- R201, R202: the top of the command stack into pc; RTSC writes its bit to C and no other bit; at ISP = 0 the stack
error (log entry 9: pc and ISP are left open, and log entry 10: C is still written). -/
def Obligations.ReturnResults : Prop :=
  Encoded 0x000C .rts ∧ (∀ c : Bool, Encoded (0x000E + c.toNat) (.rtsc c)) ∧
  ∀ s : State,
    (s.isp ≠ 0 → ∃ t, exec .rts s = .next t ∧ t.isp.val + 1 = s.isp.val ∧ t.pc = s.istack.get t.isp ∧
      t = { s with pc := t.pc, isp := t.isp }) ∧
    (s.isp = 0 → ∃ t, exec .rts s = .next t ∧ t = { s with pc := t.pc, isp := t.isp, stackErr := true }) ∧
    (∀ c : Bool, s.isp ≠ 0 → ∃ t, exec (.rtsc c) s = .next t ∧ t.isp.val + 1 = s.isp.val ∧
      t.pc = s.istack.get t.isp ∧ (∀ j, t.rs.getLsbD j = if j = 0 then c else s.rs.getLsbD j) ∧
      t = { s with pc := t.pc, isp := t.isp, rs := t.rs }) ∧
    (∀ c : Bool, s.isp = 0 → ∃ t, exec (.rtsc c) s = .next t ∧
      (∀ j, t.rs.getLsbD j = if j = 0 then c else s.rs.getLsbD j) ∧
      t = { s with pc := t.pc, isp := t.isp, rs := t.rs, stackErr := true })

/-- R203: pc from the command stack, all 8 bits of RS from the data stack, both pointers down; at ISP = 0 or DSP = 0
the stack error (log entries 9 and 10: the failing pop's results are left open, the other pop happens). -/
def Obligations.RtiResult : Prop :=
  Encoded 0x000D .rti ∧
  ∀ s : State,
    (s.isp ≠ 0 → s.dsp ≠ 0 → ∃ t, exec .rti s = .next t ∧
      t.isp.val + 1 = s.isp.val ∧ t.pc = s.istack.get t.isp ∧
      t.dsp.val + 1 = s.dsp.val ∧ t.rs = s.dstack.get t.dsp ∧
      t = { s with pc := t.pc, rs := t.rs, isp := t.isp, dsp := t.dsp }) ∧
    (s.isp = 0 ∨ s.dsp = 0 → ∃ t, exec .rti s = .next t ∧
      t = { s with pc := t.pc, rs := t.rs, isp := t.isp, dsp := t.dsp, stackErr := true } ∧
      (s.isp ≠ 0 → t.isp.val + 1 = s.isp.val ∧ t.pc = s.istack.get t.isp) ∧
      (s.dsp ≠ 0 → t.dsp.val + 1 = s.dsp.val ∧ t.rs = s.dstack.get t.dsp))

/-! ## Special instructions -/

/-- R221: NOP only moves pc (the wrap at 1023 is R10's, D8; log entry 19). -/
def Obligations.NopResult : Prop :=
  Encoded 0x0000 .nop ∧
  ∀ s : State, ∃ t, exec .nop s = .next t ∧ t.pc.toNat = (s.pc.toNat + 1) % 1024 ∧ t = { s with pc := t.pc }

/-- R222, R223: IE set and no other bit of RS, no further fetch, pc at the next word (D26; log entry 14). -/
def Obligations.WaitStopResult : Prop :=
  Encoded 0x0001 .wait ∧ Encoded 0x0008 .stop ∧
  ∀ (s : State) (i : Instr) (r : RunState), ((i, r) = (.wait, .waiting) ∨ (i, r) = (.stop, .stopped)) →
    ∃ t, exec i s = .next t ∧ (∀ j, t.rs.getLsbD j = if j = 3 then true else s.rs.getLsbD j) ∧
      t.pc.toNat = (s.pc.toNat + 1) % 1024 ∧ t = { s with pc := t.pc, rs := t.rs, run := r }

/-- R224: both pointers and the request cleared and nothing else but pc. R288 (log entry 15, where D23 refuses the
program): at an address where the platform has a vector, or where a handler has been entered, the pointers are left
open and the rest is the same. -/
def Obligations.ResetInstructionResult : Prop :=
  Encoded 0x0002 .reset ∧
  ∀ s : State,
    (s.pc ∉ s.handlers → (∀ v ∈ s.platform.vectors, v.2 ≠ s.pc) →
      exec .reset s = .next { s with pc := s.pc + 1, isp := 0, dsp := 0, stackErr := false }) ∧
    (s.pc ∈ s.handlers ∨ (∃ v ∈ s.platform.vectors, v.2 = s.pc) → ∃ t, exec .reset s = .next t ∧
      t = { s with pc := s.pc + 1, isp := t.isp, dsp := t.dsp, stackErr := false })

/-- R225: one level dropped, pc to the next word; at ISP = 0 the stack error (D25; log entry 9: ISP is left open), and pc
at the next word all the same (log entry 10). -/
def Obligations.SkspResult : Prop :=
  Encoded 0x0006 .sksp ∧
  ∀ s : State,
    (s.isp ≠ 0 → ∃ t, exec .sksp s = .next t ∧ t.isp.val + 1 = s.isp.val ∧
      t = { s with pc := s.pc + 1, isp := t.isp }) ∧
    (s.isp = 0 → ∃ t, exec .sksp s = .next t ∧ t = { s with pc := s.pc + 1, isp := t.isp, stackErr := true })
end

