-- ==== Sys2Proof/Laws/Memory.lean ====
section
/-! SUPPORT. Sparse memories: read after write, and every write keeps the canonical form. -/

namespace Sys2Proof.Machine

variable {w : Nat}

@[simp] theorem Memory.read_write_same (m : Memory w) (a : Nat) (v : BitVec w) :
    Memory.read (Memory.write m a v) a = some v := by
  induction m with
  | nil => simp [Memory.write, Memory.read]
  | cons c m ih =>
    obtain ⟨k, x⟩ := c
    unfold Memory.write
    split
    · simp [Memory.read]
    · split
      · simp [Memory.read]
      · rename_i h
        simp [Memory.read, ih, Ne.symm h]

theorem Memory.read_write_other (m : Memory w) {a b : Nat} (v : BitVec w) (h : b ≠ a) :
    Memory.read (Memory.write m a v) b = Memory.read m b := by
  induction m with
  | nil => simp [Memory.write, Memory.read, h.symm]
  | cons c m ih =>
    obtain ⟨k, x⟩ := c
    unfold Memory.write
    split
    · simp [Memory.read, h.symm]
    · split
      · rename_i e
        simp [Memory.read, h.symm, ← e]
      · simp [Memory.read, ih]

theorem Memory.mem_write {m : Memory w} {a : Nat} {v : BitVec w} {c : Nat × BitVec w}
    (h : c ∈ Memory.write m a v) : c = (a, v) ∨ c ∈ m := by
  induction m with
  | nil => simpa [Memory.write] using h
  | cons d m ih =>
    obtain ⟨k, x⟩ := d
    unfold Memory.write at h
    split at h
    · simpa using h
    · split at h
      · simp only [List.mem_cons] at h ⊢
        tauto
      · simp only [List.mem_cons] at h ⊢
        rcases h with h | h
        · exact .inr (.inl h)
        · rcases ih h with h | h
          · exact .inl h
          · exact .inr (.inr h)

/-- The canonical form of a list with a head: the head's address is below every other. -/
theorem Memory.wf_cons (k : Nat) (x : BitVec w) (m : Memory w) :
    Memory.wf ((k, x) :: m) = true ↔ (∀ c ∈ m, k < c.1) ∧ Memory.wf m = true := by
  induction m generalizing k x with
  | nil => simp [Memory.wf]
  | cons c m ih =>
    obtain ⟨j, y⟩ := c
    rw [show Memory.wf ((k, x) :: (j, y) :: m) = (decide (k < j) && Memory.wf ((j, y) :: m)) from rfl]
    simp only [Bool.and_eq_true, decide_eq_true_eq, ih j y, List.forall_mem_cons]
    constructor
    · rintro ⟨h1, h2, h3⟩
      exact ⟨⟨h1, fun c hc => h1.trans (h2 c hc)⟩, h2, h3⟩
    · rintro ⟨⟨h1, -⟩, h2⟩
      exact ⟨h1, h2⟩

theorem Memory.wf_write (m : Memory w) (a : Nat) (v : BitVec w) (h : Memory.wf m = true) :
    Memory.wf (Memory.write m a v) = true := by
  induction m with
  | nil => rfl
  | cons c m ih =>
    obtain ⟨k, x⟩ := c
    have hc := (Memory.wf_cons k x m).1 h
    unfold Memory.write
    split
    · rename_i hlt
      exact (Memory.wf_cons a v _).2
        ⟨List.forall_mem_cons.2 ⟨hlt, fun c hm => Nat.lt_trans hlt (hc.1 c hm)⟩, h⟩
    · split
      · rename_i heq
        exact (Memory.wf_cons a v m).2 ⟨fun c hm => by rw [heq]; exact hc.1 c hm, hc.2⟩
      · rename_i h1 h2
        refine (Memory.wf_cons k x _).2 ⟨fun c hm => ?_, ih hc.2⟩
        rcases Memory.mem_write hm with rfl | hm
        · exact Nat.lt_of_le_of_ne (Nat.le_of_not_lt h1) (Ne.symm h2)
        · exact hc.1 c hm

theorem loadWords_wf (m : Memory 16) (base : Nat) (ws : List Word) (h : Memory.wf m = true) :
    Memory.wf (loadWords m base ws) = true := by
  induction ws generalizing m base with
  | nil => exact h
  | cons x ws ih => exact ih _ _ (Memory.wf_write m base x h)

end Sys2Proof.Machine
end

