-- ==== Sys2Proof/Laws/Flags.lean ====
section
/-! SUPPORT. The status register's bits after each write of it. -/

namespace Sys2Proof.Machine

theorem getLsbD_putBit (v : Byte) (i j : Nat) (b : Bool) (hi : i < 8) :
    (putBit v i b).getLsbD j = if j = i then b else v.getLsbD j := by
  by_cases hj : j < 8
  · unfold putBit
    by_cases h : j = i
    · subst h; cases b <;> simp [hj]
    · have h' : ¬(j - i = 0 ∧ i ≤ j) := by omega
      cases b <;> simp [h, hj] <;> intros <;> omega
  · have : j ≠ i := by omega
    simp [this, BitVec.getLsbD_of_ge _ _ (Nat.le_of_not_lt hj)]

/-- Any bit of RS after the condition flags are written: IE and bits 7:6 stay. -/
theorem getLsbD_withFlags (rs : Byte) (f : Flags) (j : Nat) :
    (withFlags rs f).getLsbD j =
      if j = 5 then f.digit else if j = 4 then f.overflow else if j = 2 then f.sign
      else if j = 1 then f.zero else if j = 0 then f.carry else rs.getLsbD j := by
  simp only [withFlags, getLsbD_putBit _ _ _ _ (by decide : 5 < 8), getLsbD_putBit _ _ _ _ (by decide : 4 < 8),
    getLsbD_putBit _ _ _ _ (by decide : 2 < 8), getLsbD_putBit _ _ _ _ (by decide : 1 < 8),
    getLsbD_putBit _ _ _ _ (by decide : 0 < 8)]

@[simp] theorem flagsOf_withFlags (rs : Byte) (f : Flags) : flagsOf (withFlags rs f) = f := by
  simp only [flagsOf, getLsbD_withFlags]; rfl

@[simp] theorem ieOf_withFlags (rs : Byte) (f : Flags) : ieOf (withFlags rs f) = ieOf rs := by
  simp only [ieOf, getLsbD_withFlags]; rfl

@[simp] theorem ieOf_withIe (rs : Byte) (b : Bool) : ieOf (withIe rs b) = b := by
  simp only [ieOf, withIe, getLsbD_putBit _ _ _ _ (by decide : 3 < 8)]; rfl

@[simp] theorem flagsOf_withIe (rs : Byte) (b : Bool) : flagsOf (withIe rs b) = flagsOf rs := by
  simp only [flagsOf, withIe, getLsbD_putBit _ _ _ _ (by decide : 3 < 8)]; rfl

section
variable (r : Byte) (c o d : Bool)

@[simp] theorem aluResult_value : (aluResult r c o d).value = r := rfl
@[simp] theorem aluResult_carry : (aluResult r c o d).flags.carry = c := rfl
@[simp] theorem aluResult_zero : (aluResult r c o d).flags.zero = (r == 0#8) := rfl
@[simp] theorem aluResult_sign : (aluResult r c o d).flags.sign = r.getLsbD 7 := rfl
@[simp] theorem aluResult_overflow : (aluResult r c o d).flags.overflow = o := rfl
@[simp] theorem aluResult_digit : (aluResult r c o d).flags.digit = d := rfl

end

end Sys2Proof.Machine
end

