-- ==== Sys2Proof/Laws/State.lean ====
section
/-! SUPPORT. Every field after every update: no proof unfolds a record update. -/

namespace Sys2Proof.Machine

section
variable (s : State)

@[simp] theorem State.advance_pc : (s.advance).pc = s.pc + 1 := rfl
@[simp] theorem State.advance_rs : (s.advance).rs = s.rs := rfl
@[simp] theorem State.advance_sr : (s.advance).sr = s.sr := rfl
@[simp] theorem State.advance_istack : (s.advance).istack = s.istack := rfl
@[simp] theorem State.advance_isp : (s.advance).isp = s.isp := rfl
@[simp] theorem State.advance_dstack : (s.advance).dstack = s.dstack := rfl
@[simp] theorem State.advance_dsp : (s.advance).dsp = s.dsp := rfl
@[simp] theorem State.advance_stackErr : (s.advance).stackErr = s.stackErr := rfl
@[simp] theorem State.advance_run : (s.advance).run = s.run := rfl
@[simp] theorem State.advance_mem : (s.advance).mem = s.mem := rfl
@[simp] theorem State.advance_pmem : (s.advance).pmem = s.pmem := rfl
@[simp] theorem State.advance_platform : (s.advance).platform = s.platform := rfl
@[simp] theorem State.advance_env : (s.advance).env = s.env := rfl
@[simp] theorem State.advance_bus : (s.advance).bus = s.bus := rfl
@[simp] theorem State.advance_indirectLoaded : (s.advance).indirectLoaded = s.indirectLoaded := rfl
@[simp] theorem State.advance_handlers : (s.advance).handlers = s.handlers := rfl
@[simp] theorem State.advance_tick : (s.advance).tick = s.tick := rfl

end

section
variable (s : State) (a : PAddr)

@[simp] theorem State.setPc_pc : (s.setPc a).pc = a := rfl
@[simp] theorem State.setPc_rs : (s.setPc a).rs = s.rs := rfl
@[simp] theorem State.setPc_sr : (s.setPc a).sr = s.sr := rfl
@[simp] theorem State.setPc_istack : (s.setPc a).istack = s.istack := rfl
@[simp] theorem State.setPc_isp : (s.setPc a).isp = s.isp := rfl
@[simp] theorem State.setPc_dstack : (s.setPc a).dstack = s.dstack := rfl
@[simp] theorem State.setPc_dsp : (s.setPc a).dsp = s.dsp := rfl
@[simp] theorem State.setPc_stackErr : (s.setPc a).stackErr = s.stackErr := rfl
@[simp] theorem State.setPc_run : (s.setPc a).run = s.run := rfl
@[simp] theorem State.setPc_mem : (s.setPc a).mem = s.mem := rfl
@[simp] theorem State.setPc_pmem : (s.setPc a).pmem = s.pmem := rfl
@[simp] theorem State.setPc_platform : (s.setPc a).platform = s.platform := rfl
@[simp] theorem State.setPc_env : (s.setPc a).env = s.env := rfl
@[simp] theorem State.setPc_bus : (s.setPc a).bus = s.bus := rfl
@[simp] theorem State.setPc_indirectLoaded : (s.setPc a).indirectLoaded = s.indirectLoaded := rfl
@[simp] theorem State.setPc_handlers : (s.setPc a).handlers = s.handlers := rfl
@[simp] theorem State.setPc_tick : (s.setPc a).tick = s.tick := rfl

end

section
variable (s : State) (v : Byte)

@[simp] theorem State.setRs_pc : (s.setRs v).pc = s.pc := rfl
@[simp] theorem State.setRs_rs : (s.setRs v).rs = v := rfl
@[simp] theorem State.setRs_sr : (s.setRs v).sr = s.sr := rfl
@[simp] theorem State.setRs_istack : (s.setRs v).istack = s.istack := rfl
@[simp] theorem State.setRs_isp : (s.setRs v).isp = s.isp := rfl
@[simp] theorem State.setRs_dstack : (s.setRs v).dstack = s.dstack := rfl
@[simp] theorem State.setRs_dsp : (s.setRs v).dsp = s.dsp := rfl
@[simp] theorem State.setRs_stackErr : (s.setRs v).stackErr = s.stackErr := rfl
@[simp] theorem State.setRs_run : (s.setRs v).run = s.run := rfl
@[simp] theorem State.setRs_mem : (s.setRs v).mem = s.mem := rfl
@[simp] theorem State.setRs_pmem : (s.setRs v).pmem = s.pmem := rfl
@[simp] theorem State.setRs_platform : (s.setRs v).platform = s.platform := rfl
@[simp] theorem State.setRs_env : (s.setRs v).env = s.env := rfl
@[simp] theorem State.setRs_bus : (s.setRs v).bus = s.bus := rfl
@[simp] theorem State.setRs_indirectLoaded : (s.setRs v).indirectLoaded = s.indirectLoaded := rfl
@[simp] theorem State.setRs_handlers : (s.setRs v).handlers = s.handlers := rfl
@[simp] theorem State.setRs_tick : (s.setRs v).tick = s.tick := rfl

end

section
variable (s : State) (f : Flags)

@[simp] theorem State.setFlags_pc : (s.setFlags f).pc = s.pc := rfl
@[simp] theorem State.setFlags_rs : (s.setFlags f).rs = withFlags s.rs f := rfl
@[simp] theorem State.setFlags_sr : (s.setFlags f).sr = s.sr := rfl
@[simp] theorem State.setFlags_istack : (s.setFlags f).istack = s.istack := rfl
@[simp] theorem State.setFlags_isp : (s.setFlags f).isp = s.isp := rfl
@[simp] theorem State.setFlags_dstack : (s.setFlags f).dstack = s.dstack := rfl
@[simp] theorem State.setFlags_dsp : (s.setFlags f).dsp = s.dsp := rfl
@[simp] theorem State.setFlags_stackErr : (s.setFlags f).stackErr = s.stackErr := rfl
@[simp] theorem State.setFlags_run : (s.setFlags f).run = s.run := rfl
@[simp] theorem State.setFlags_mem : (s.setFlags f).mem = s.mem := rfl
@[simp] theorem State.setFlags_pmem : (s.setFlags f).pmem = s.pmem := rfl
@[simp] theorem State.setFlags_platform : (s.setFlags f).platform = s.platform := rfl
@[simp] theorem State.setFlags_env : (s.setFlags f).env = s.env := rfl
@[simp] theorem State.setFlags_bus : (s.setFlags f).bus = s.bus := rfl
@[simp] theorem State.setFlags_indirectLoaded : (s.setFlags f).indirectLoaded = s.indirectLoaded := rfl
@[simp] theorem State.setFlags_handlers : (s.setFlags f).handlers = s.handlers := rfl
@[simp] theorem State.setFlags_tick : (s.setFlags f).tick = s.tick := rfl

end

section
variable (s : State) (n : SvcReg) (v : Byte)

@[simp] theorem State.writeSr_pc : (s.writeSr n v).pc = s.pc := rfl
@[simp] theorem State.writeSr_rs : (s.writeSr n v).rs = s.rs := rfl
@[simp] theorem State.writeSr_sr : (s.writeSr n v).sr = s.sr.set n.val (v &&& s.platform.srMask.get n) n.isLt := rfl
@[simp] theorem State.writeSr_istack : (s.writeSr n v).istack = s.istack := rfl
@[simp] theorem State.writeSr_isp : (s.writeSr n v).isp = s.isp := rfl
@[simp] theorem State.writeSr_dstack : (s.writeSr n v).dstack = s.dstack := rfl
@[simp] theorem State.writeSr_dsp : (s.writeSr n v).dsp = s.dsp := rfl
@[simp] theorem State.writeSr_stackErr : (s.writeSr n v).stackErr = s.stackErr := rfl
@[simp] theorem State.writeSr_run : (s.writeSr n v).run = s.run := rfl
@[simp] theorem State.writeSr_mem : (s.writeSr n v).mem = s.mem := rfl
@[simp] theorem State.writeSr_pmem : (s.writeSr n v).pmem = s.pmem := rfl
@[simp] theorem State.writeSr_platform : (s.writeSr n v).platform = s.platform := rfl
@[simp] theorem State.writeSr_env : (s.writeSr n v).env = s.env := rfl
@[simp] theorem State.writeSr_bus : (s.writeSr n v).bus = s.bus := rfl
@[simp] theorem State.writeSr_indirectLoaded : (s.writeSr n v).indirectLoaded = (s.indirectLoaded || decide (4 ≤ n.val)) := rfl
@[simp] theorem State.writeSr_handlers : (s.writeSr n v).handlers = s.handlers := rfl
@[simp] theorem State.writeSr_tick : (s.writeSr n v).tick = s.tick := rfl

end

section
variable (s : State) (es : List BusEvent)

@[simp] theorem State.logBus_pc : (s.logBus es).pc = s.pc := rfl
@[simp] theorem State.logBus_rs : (s.logBus es).rs = s.rs := rfl
@[simp] theorem State.logBus_sr : (s.logBus es).sr = s.sr := rfl
@[simp] theorem State.logBus_istack : (s.logBus es).istack = s.istack := rfl
@[simp] theorem State.logBus_isp : (s.logBus es).isp = s.isp := rfl
@[simp] theorem State.logBus_dstack : (s.logBus es).dstack = s.dstack := rfl
@[simp] theorem State.logBus_dsp : (s.logBus es).dsp = s.dsp := rfl
@[simp] theorem State.logBus_stackErr : (s.logBus es).stackErr = s.stackErr := rfl
@[simp] theorem State.logBus_run : (s.logBus es).run = s.run := rfl
@[simp] theorem State.logBus_mem : (s.logBus es).mem = s.mem := rfl
@[simp] theorem State.logBus_pmem : (s.logBus es).pmem = s.pmem := rfl
@[simp] theorem State.logBus_platform : (s.logBus es).platform = s.platform := rfl
@[simp] theorem State.logBus_env : (s.logBus es).env = s.env := rfl
@[simp] theorem State.logBus_bus : (s.logBus es).bus = s.bus ++ es := rfl
@[simp] theorem State.logBus_indirectLoaded : (s.logBus es).indirectLoaded = s.indirectLoaded := rfl
@[simp] theorem State.logBus_handlers : (s.logBus es).handlers = s.handlers := rfl
@[simp] theorem State.logBus_tick : (s.logBus es).tick = s.tick := rfl

end

section
variable (s : State)

@[simp] theorem State.endBoundary_pc : (s.endBoundary).pc = s.pc := rfl
@[simp] theorem State.endBoundary_rs : (s.endBoundary).rs = s.rs := rfl
@[simp] theorem State.endBoundary_sr : (s.endBoundary).sr = s.sr := rfl
@[simp] theorem State.endBoundary_istack : (s.endBoundary).istack = s.istack := rfl
@[simp] theorem State.endBoundary_isp : (s.endBoundary).isp = s.isp := rfl
@[simp] theorem State.endBoundary_dstack : (s.endBoundary).dstack = s.dstack := rfl
@[simp] theorem State.endBoundary_dsp : (s.endBoundary).dsp = s.dsp := rfl
@[simp] theorem State.endBoundary_stackErr : (s.endBoundary).stackErr = s.stackErr := rfl
@[simp] theorem State.endBoundary_run : (s.endBoundary).run = s.run := rfl
@[simp] theorem State.endBoundary_mem : (s.endBoundary).mem = s.mem := rfl
@[simp] theorem State.endBoundary_pmem : (s.endBoundary).pmem = s.pmem := rfl
@[simp] theorem State.endBoundary_platform : (s.endBoundary).platform = s.platform := rfl
@[simp] theorem State.endBoundary_env : (s.endBoundary).env = s.env.tail := rfl
@[simp] theorem State.endBoundary_bus : (s.endBoundary).bus = s.bus := rfl
@[simp] theorem State.endBoundary_indirectLoaded : (s.endBoundary).indirectLoaded = s.indirectLoaded := rfl
@[simp] theorem State.endBoundary_handlers : (s.endBoundary).handlers = s.handlers := rfl
@[simp] theorem State.endBoundary_tick : (s.endBoundary).tick = s.tick + 1 := rfl

end

section
variable (s : State) (a : Nat) (v : Byte)

@[simp] theorem State.storeCell_pc : (s.storeCell a v).pc = s.pc := by
  unfold State.storeCell; split <;> rfl
@[simp] theorem State.storeCell_rs : (s.storeCell a v).rs = s.rs := by
  unfold State.storeCell; split <;> rfl
@[simp] theorem State.storeCell_sr : (s.storeCell a v).sr = s.sr := by
  unfold State.storeCell; split <;> rfl
@[simp] theorem State.storeCell_istack : (s.storeCell a v).istack = s.istack := by
  unfold State.storeCell; split <;> rfl
@[simp] theorem State.storeCell_isp : (s.storeCell a v).isp = s.isp := by
  unfold State.storeCell; split <;> rfl
@[simp] theorem State.storeCell_dstack : (s.storeCell a v).dstack = s.dstack := by
  unfold State.storeCell; split <;> rfl
@[simp] theorem State.storeCell_dsp : (s.storeCell a v).dsp = s.dsp := by
  unfold State.storeCell; split <;> rfl
@[simp] theorem State.storeCell_stackErr : (s.storeCell a v).stackErr = s.stackErr := by
  unfold State.storeCell; split <;> rfl
@[simp] theorem State.storeCell_run : (s.storeCell a v).run = s.run := by
  unfold State.storeCell; split <;> rfl
@[simp] theorem State.storeCell_pmem : (s.storeCell a v).pmem = s.pmem := by
  unfold State.storeCell; split <;> rfl
@[simp] theorem State.storeCell_platform : (s.storeCell a v).platform = s.platform := by
  unfold State.storeCell; split <;> rfl
@[simp] theorem State.storeCell_env : (s.storeCell a v).env = s.env := by
  unfold State.storeCell; split <;> rfl
@[simp] theorem State.storeCell_indirectLoaded : (s.storeCell a v).indirectLoaded = s.indirectLoaded := by
  unfold State.storeCell; split <;> rfl
@[simp] theorem State.storeCell_handlers : (s.storeCell a v).handlers = s.handlers := by
  unfold State.storeCell; split <;> rfl
@[simp] theorem State.storeCell_tick : (s.storeCell a v).tick = s.tick := by
  unfold State.storeCell; split <;> rfl

end

end Sys2Proof.Machine
end

