-- ==== Sys2Proof/Laws/Ops.lean ====
section
/-! SUPPORT. What the stack operations and interrupt entry and return leave alone, and what they do. -/

namespace Sys2Proof.Machine

section
variable (s : State) (a : PAddr)

@[simp] theorem State.ipush_pc : (s.ipush a).pc = s.pc := by
  unfold State.ipush; split <;> rfl
@[simp] theorem State.ipush_rs : (s.ipush a).rs = s.rs := by
  unfold State.ipush; split <;> rfl
@[simp] theorem State.ipush_sr : (s.ipush a).sr = s.sr := by
  unfold State.ipush; split <;> rfl
@[simp] theorem State.ipush_dstack : (s.ipush a).dstack = s.dstack := by
  unfold State.ipush; split <;> rfl
@[simp] theorem State.ipush_dsp : (s.ipush a).dsp = s.dsp := by
  unfold State.ipush; split <;> rfl
@[simp] theorem State.ipush_run : (s.ipush a).run = s.run := by
  unfold State.ipush; split <;> rfl
@[simp] theorem State.ipush_mem : (s.ipush a).mem = s.mem := by
  unfold State.ipush; split <;> rfl
@[simp] theorem State.ipush_pmem : (s.ipush a).pmem = s.pmem := by
  unfold State.ipush; split <;> rfl
@[simp] theorem State.ipush_platform : (s.ipush a).platform = s.platform := by
  unfold State.ipush; split <;> rfl
@[simp] theorem State.ipush_env : (s.ipush a).env = s.env := by
  unfold State.ipush; split <;> rfl
@[simp] theorem State.ipush_bus : (s.ipush a).bus = s.bus := by
  unfold State.ipush; split <;> rfl
@[simp] theorem State.ipush_indirectLoaded : (s.ipush a).indirectLoaded = s.indirectLoaded := by
  unfold State.ipush; split <;> rfl
@[simp] theorem State.ipush_handlers : (s.ipush a).handlers = s.handlers := by
  unfold State.ipush; split <;> rfl
@[simp] theorem State.ipush_tick : (s.ipush a).tick = s.tick := by
  unfold State.ipush; split <;> rfl

end

section
variable (s : State)

@[simp] theorem State.ipop_pc : (s.ipop.2).pc = s.pc := by
  unfold State.ipop; split <;> rfl
@[simp] theorem State.ipop_rs : (s.ipop.2).rs = s.rs := by
  unfold State.ipop; split <;> rfl
@[simp] theorem State.ipop_sr : (s.ipop.2).sr = s.sr := by
  unfold State.ipop; split <;> rfl
@[simp] theorem State.ipop_istack : (s.ipop.2).istack = s.istack := by
  unfold State.ipop; split <;> rfl
@[simp] theorem State.ipop_dstack : (s.ipop.2).dstack = s.dstack := by
  unfold State.ipop; split <;> rfl
@[simp] theorem State.ipop_dsp : (s.ipop.2).dsp = s.dsp := by
  unfold State.ipop; split <;> rfl
@[simp] theorem State.ipop_run : (s.ipop.2).run = s.run := by
  unfold State.ipop; split <;> rfl
@[simp] theorem State.ipop_mem : (s.ipop.2).mem = s.mem := by
  unfold State.ipop; split <;> rfl
@[simp] theorem State.ipop_pmem : (s.ipop.2).pmem = s.pmem := by
  unfold State.ipop; split <;> rfl
@[simp] theorem State.ipop_platform : (s.ipop.2).platform = s.platform := by
  unfold State.ipop; split <;> rfl
@[simp] theorem State.ipop_env : (s.ipop.2).env = s.env := by
  unfold State.ipop; split <;> rfl
@[simp] theorem State.ipop_bus : (s.ipop.2).bus = s.bus := by
  unfold State.ipop; split <;> rfl
@[simp] theorem State.ipop_indirectLoaded : (s.ipop.2).indirectLoaded = s.indirectLoaded := by
  unfold State.ipop; split <;> rfl
@[simp] theorem State.ipop_handlers : (s.ipop.2).handlers = s.handlers := by
  unfold State.ipop; split <;> rfl
@[simp] theorem State.ipop_tick : (s.ipop.2).tick = s.tick := by
  unfold State.ipop; split <;> rfl

end

section
variable (s : State) (v : Byte)

@[simp] theorem State.dpush_pc : (s.dpush v).pc = s.pc := by
  unfold State.dpush; split <;> rfl
@[simp] theorem State.dpush_rs : (s.dpush v).rs = s.rs := by
  unfold State.dpush; split <;> rfl
@[simp] theorem State.dpush_sr : (s.dpush v).sr = s.sr := by
  unfold State.dpush; split <;> rfl
@[simp] theorem State.dpush_istack : (s.dpush v).istack = s.istack := by
  unfold State.dpush; split <;> rfl
@[simp] theorem State.dpush_isp : (s.dpush v).isp = s.isp := by
  unfold State.dpush; split <;> rfl
@[simp] theorem State.dpush_run : (s.dpush v).run = s.run := by
  unfold State.dpush; split <;> rfl
@[simp] theorem State.dpush_mem : (s.dpush v).mem = s.mem := by
  unfold State.dpush; split <;> rfl
@[simp] theorem State.dpush_pmem : (s.dpush v).pmem = s.pmem := by
  unfold State.dpush; split <;> rfl
@[simp] theorem State.dpush_platform : (s.dpush v).platform = s.platform := by
  unfold State.dpush; split <;> rfl
@[simp] theorem State.dpush_env : (s.dpush v).env = s.env := by
  unfold State.dpush; split <;> rfl
@[simp] theorem State.dpush_bus : (s.dpush v).bus = s.bus := by
  unfold State.dpush; split <;> rfl
@[simp] theorem State.dpush_indirectLoaded : (s.dpush v).indirectLoaded = s.indirectLoaded := by
  unfold State.dpush; split <;> rfl
@[simp] theorem State.dpush_handlers : (s.dpush v).handlers = s.handlers := by
  unfold State.dpush; split <;> rfl
@[simp] theorem State.dpush_tick : (s.dpush v).tick = s.tick := by
  unfold State.dpush; split <;> rfl

end

section
variable (s : State)

@[simp] theorem State.dpop_pc : (s.dpop.2).pc = s.pc := by
  unfold State.dpop; split <;> rfl
@[simp] theorem State.dpop_rs : (s.dpop.2).rs = s.rs := by
  unfold State.dpop; split <;> rfl
@[simp] theorem State.dpop_sr : (s.dpop.2).sr = s.sr := by
  unfold State.dpop; split <;> rfl
@[simp] theorem State.dpop_istack : (s.dpop.2).istack = s.istack := by
  unfold State.dpop; split <;> rfl
@[simp] theorem State.dpop_isp : (s.dpop.2).isp = s.isp := by
  unfold State.dpop; split <;> rfl
@[simp] theorem State.dpop_dstack : (s.dpop.2).dstack = s.dstack := by
  unfold State.dpop; split <;> rfl
@[simp] theorem State.dpop_run : (s.dpop.2).run = s.run := by
  unfold State.dpop; split <;> rfl
@[simp] theorem State.dpop_mem : (s.dpop.2).mem = s.mem := by
  unfold State.dpop; split <;> rfl
@[simp] theorem State.dpop_pmem : (s.dpop.2).pmem = s.pmem := by
  unfold State.dpop; split <;> rfl
@[simp] theorem State.dpop_platform : (s.dpop.2).platform = s.platform := by
  unfold State.dpop; split <;> rfl
@[simp] theorem State.dpop_env : (s.dpop.2).env = s.env := by
  unfold State.dpop; split <;> rfl
@[simp] theorem State.dpop_bus : (s.dpop.2).bus = s.bus := by
  unfold State.dpop; split <;> rfl
@[simp] theorem State.dpop_indirectLoaded : (s.dpop.2).indirectLoaded = s.indirectLoaded := by
  unfold State.dpop; split <;> rfl
@[simp] theorem State.dpop_handlers : (s.dpop.2).handlers = s.handlers := by
  unfold State.dpop; split <;> rfl
@[simp] theorem State.dpop_tick : (s.dpop.2).tick = s.tick := by
  unfold State.dpop; split <;> rfl

end

section
variable (s : State) (a : PAddr)

@[simp] theorem State.call_rs : (s.call a).rs = s.rs := by
  simp [State.call]
@[simp] theorem State.call_sr : (s.call a).sr = s.sr := by
  simp [State.call]
@[simp] theorem State.call_dstack : (s.call a).dstack = s.dstack := by
  simp [State.call]
@[simp] theorem State.call_dsp : (s.call a).dsp = s.dsp := by
  simp [State.call]
@[simp] theorem State.call_run : (s.call a).run = s.run := by
  simp [State.call]
@[simp] theorem State.call_mem : (s.call a).mem = s.mem := by
  simp [State.call]
@[simp] theorem State.call_pmem : (s.call a).pmem = s.pmem := by
  simp [State.call]
@[simp] theorem State.call_platform : (s.call a).platform = s.platform := by
  simp [State.call]
@[simp] theorem State.call_env : (s.call a).env = s.env := by
  simp [State.call]
@[simp] theorem State.call_bus : (s.call a).bus = s.bus := by
  simp [State.call]
@[simp] theorem State.call_indirectLoaded : (s.call a).indirectLoaded = s.indirectLoaded := by
  simp [State.call]
@[simp] theorem State.call_handlers : (s.call a).handlers = s.handlers := by
  simp [State.call]
@[simp] theorem State.call_tick : (s.call a).tick = s.tick := by
  simp [State.call]

end

section
variable (s : State) (c : Bool) (a : PAddr)

@[simp] theorem State.branchIf_rs : (s.branchIf c a).rs = s.rs := by
  unfold State.branchIf; split <;> rfl
@[simp] theorem State.branchIf_sr : (s.branchIf c a).sr = s.sr := by
  unfold State.branchIf; split <;> rfl
@[simp] theorem State.branchIf_istack : (s.branchIf c a).istack = s.istack := by
  unfold State.branchIf; split <;> rfl
@[simp] theorem State.branchIf_isp : (s.branchIf c a).isp = s.isp := by
  unfold State.branchIf; split <;> rfl
@[simp] theorem State.branchIf_dstack : (s.branchIf c a).dstack = s.dstack := by
  unfold State.branchIf; split <;> rfl
@[simp] theorem State.branchIf_dsp : (s.branchIf c a).dsp = s.dsp := by
  unfold State.branchIf; split <;> rfl
@[simp] theorem State.branchIf_stackErr : (s.branchIf c a).stackErr = s.stackErr := by
  unfold State.branchIf; split <;> rfl
@[simp] theorem State.branchIf_run : (s.branchIf c a).run = s.run := by
  unfold State.branchIf; split <;> rfl
@[simp] theorem State.branchIf_mem : (s.branchIf c a).mem = s.mem := by
  unfold State.branchIf; split <;> rfl
@[simp] theorem State.branchIf_pmem : (s.branchIf c a).pmem = s.pmem := by
  unfold State.branchIf; split <;> rfl
@[simp] theorem State.branchIf_platform : (s.branchIf c a).platform = s.platform := by
  unfold State.branchIf; split <;> rfl
@[simp] theorem State.branchIf_env : (s.branchIf c a).env = s.env := by
  unfold State.branchIf; split <;> rfl
@[simp] theorem State.branchIf_bus : (s.branchIf c a).bus = s.bus := by
  unfold State.branchIf; split <;> rfl
@[simp] theorem State.branchIf_indirectLoaded : (s.branchIf c a).indirectLoaded = s.indirectLoaded := by
  unfold State.branchIf; split <;> rfl
@[simp] theorem State.branchIf_handlers : (s.branchIf c a).handlers = s.handlers := by
  unfold State.branchIf; split <;> rfl
@[simp] theorem State.branchIf_tick : (s.branchIf c a).tick = s.tick := by
  unfold State.branchIf; split <;> rfl

end

section
variable (s : State)

@[simp] theorem State.returnFromInterrupt_sr : (s.returnFromInterrupt).sr = s.sr := by
  simp [State.returnFromInterrupt]
@[simp] theorem State.returnFromInterrupt_istack : (s.returnFromInterrupt).istack = s.istack := by
  simp [State.returnFromInterrupt]
@[simp] theorem State.returnFromInterrupt_dstack : (s.returnFromInterrupt).dstack = s.dstack := by
  simp [State.returnFromInterrupt]
@[simp] theorem State.returnFromInterrupt_run : (s.returnFromInterrupt).run = s.run := by
  simp [State.returnFromInterrupt]
@[simp] theorem State.returnFromInterrupt_mem : (s.returnFromInterrupt).mem = s.mem := by
  simp [State.returnFromInterrupt]
@[simp] theorem State.returnFromInterrupt_pmem : (s.returnFromInterrupt).pmem = s.pmem := by
  simp [State.returnFromInterrupt]
@[simp] theorem State.returnFromInterrupt_platform : (s.returnFromInterrupt).platform = s.platform := by
  simp [State.returnFromInterrupt]
@[simp] theorem State.returnFromInterrupt_env : (s.returnFromInterrupt).env = s.env := by
  simp [State.returnFromInterrupt]
@[simp] theorem State.returnFromInterrupt_bus : (s.returnFromInterrupt).bus = s.bus := by
  simp [State.returnFromInterrupt]
@[simp] theorem State.returnFromInterrupt_indirectLoaded : (s.returnFromInterrupt).indirectLoaded = s.indirectLoaded := by
  simp [State.returnFromInterrupt]
@[simp] theorem State.returnFromInterrupt_handlers : (s.returnFromInterrupt).handlers = s.handlers := by
  simp [State.returnFromInterrupt]
@[simp] theorem State.returnFromInterrupt_tick : (s.returnFromInterrupt).tick = s.tick := by
  simp [State.returnFromInterrupt]

end

section
variable (s : State) (src : IntSource)

@[simp] theorem State.enterInterrupt_sr : (s.enterInterrupt src).sr = s.sr := by
  unfold State.enterInterrupt State.toHandler; split <;> (try split) <;> simp
@[simp] theorem State.enterInterrupt_mem : (s.enterInterrupt src).mem = s.mem := by
  unfold State.enterInterrupt State.toHandler; split <;> (try split) <;> simp
@[simp] theorem State.enterInterrupt_pmem : (s.enterInterrupt src).pmem = s.pmem := by
  unfold State.enterInterrupt State.toHandler; split <;> (try split) <;> simp
@[simp] theorem State.enterInterrupt_platform : (s.enterInterrupt src).platform = s.platform := by
  unfold State.enterInterrupt State.toHandler; split <;> (try split) <;> simp
@[simp] theorem State.enterInterrupt_env : (s.enterInterrupt src).env = s.env := by
  unfold State.enterInterrupt State.toHandler; split <;> (try split) <;> simp
@[simp] theorem State.enterInterrupt_bus : (s.enterInterrupt src).bus = s.bus := by
  unfold State.enterInterrupt State.toHandler; split <;> (try split) <;> simp
@[simp] theorem State.enterInterrupt_indirectLoaded : (s.enterInterrupt src).indirectLoaded = s.indirectLoaded := by
  unfold State.enterInterrupt State.toHandler; split <;> (try split) <;> simp
@[simp] theorem State.enterInterrupt_tick : (s.enterInterrupt src).tick = s.tick := by
  unfold State.enterInterrupt State.toHandler; split <;> (try split) <;> simp

end

/-- What the record of handlers holds after one more entry. -/
theorem mem_insertOnce {a b : PAddr} {l : List PAddr} : b ∈ insertOnce a l ↔ b = a ∨ b ∈ l := by
  unfold insertOnce
  split
  · rename_i h
    exact ⟨.inr, fun h' => h'.elim (fun e => e ▸ by simpa using h) id⟩
  · exact List.mem_cons

theorem nodup_insertOnce (a : PAddr) {l : List PAddr} (h : l.Nodup) : (insertOnce a l).Nodup := by
  unfold insertOnce
  split
  · exact h
  · rename_i ha
    exact List.nodup_cons.2 ⟨by simpa using ha, h⟩

/-- One element of a vector set: that one there, the others as they were. -/
theorem get_set {n : Nat} {α : Type} (v : Vector α n) (i j : Fin n) (x : α) :
    (v.set i.val x i.isLt).get j = if j = i then x else v.get j := by
  simp only [Vector.get_eq_getElem, Vector.getElem_set, Fin.ext_iff, eq_comm (a := i.val)]

section
variable (s : State)

/-- The stack operations write no cell but the one at the pointer. -/
theorem State.ipush_other (a : PAddr) {k : Fin 8} (h : k ≠ s.isp) : (s.ipush a).istack.get k = s.istack.get k := by
  unfold State.ipush; split <;> simp [get_set, h]

theorem State.dpush_other (v : Byte) {k : Fin 16} (h : k ≠ s.dsp) : (s.dpush v).dstack.get k = s.dstack.get k := by
  unfold State.dpush; split <;> simp [get_set, h]

theorem State.enterInterrupt_other (src : IntSource) :
    (∀ k, k ≠ s.isp → (s.enterInterrupt src).istack.get k = s.istack.get k) ∧
    (∀ k, k ≠ s.dsp → (s.enterInterrupt src).dstack.get k = s.dstack.get k) := by
  unfold State.enterInterrupt State.toHandler
  split
  · split <;> exact ⟨fun k h => by simp [get_set, h], fun k h => by simp [get_set, h]⟩
  · exact ⟨fun k h => by simpa using s.ipush_other s.pc h,
      fun k h => by simpa using (s.ipush s.pc).dpush_other s.savedRs (k := k) (by simpa using h)⟩

theorem State.ipush_ok (a : PAddr) (h : s.isp ≠ 7) :
    s.ipush a = { s with isp := s.isp + 1, istack := s.istack.set s.isp.val a s.isp.isLt } := by
  simp [State.ipush, h]

theorem State.ipop_ok (h : s.isp ≠ 0) :
    s.ipop = (s.istack.get (s.isp - 1), { s with isp := s.isp - 1 }) := by
  simp [State.ipop, h]

theorem State.dpush_ok (v : Byte) (h : s.dsp ≠ 15) :
    s.dpush v = { s with dsp := s.dsp + 1, dstack := s.dstack.set s.dsp.val v s.dsp.isLt } := by
  simp [State.dpush, h]

theorem State.dpop_ok (h : s.dsp ≠ 0) :
    s.dpop = (s.dstack.get (s.dsp - 1), { s with dsp := s.dsp - 1 }) := by
  simp [State.dpop, h]

/-- A failing push or pop latches the request; one that does not fail keeps it. -/
theorem State.ipush_stackErr (a : PAddr) : (s.ipush a).stackErr = (s.stackErr || decide (s.isp = 7)) := by
  unfold State.ipush; split <;> simp [*]

theorem State.ipop_stackErr : s.ipop.2.stackErr = (s.stackErr || decide (s.isp = 0)) := by
  unfold State.ipop; split <;> simp [*]

theorem State.dpush_stackErr (v : Byte) : (s.dpush v).stackErr = (s.stackErr || decide (s.dsp = 15)) := by
  unfold State.dpush; split <;> simp [*]

theorem State.dpop_stackErr : s.dpop.2.stackErr = (s.stackErr || decide (s.dsp = 0)) := by
  unfold State.dpop; split <;> simp [*]

/-- Entry with room on both stacks (R244). -/
theorem State.enterInterrupt_ok (src : IntSource) (hi : s.isp ≠ 7) (hd : s.dsp ≠ 15) :
    s.enterInterrupt src = ((s.ipush s.pc).dpush s.savedRs).toHandler src := by
  simp [State.enterInterrupt, hi, hd]

end

end Sys2Proof.Machine
end

