-- ==== Sys2Proof/Laws/Operands.lean ====
section
/-! SUPPORT. Operand cells and the six access patterns: what each answers, said once. -/

namespace Sys2Proof.Machine

section
variable (s : State)

theorem State.ea_lt (role : Role) (o : Operand) : s.ea role o < 2 ^ s.platform.daddrBits :=
  Nat.mod_lt _ (Nat.two_pow_pos _)

/-- What an address is depends on the platform alone. -/
theorem State.kind_congr {s t : State} (h : t.platform = s.platform) : t.kind = s.kind := by
  funext a; simp only [State.kind, h]

@[simp] theorem State.kind_logBus (es : List BusEvent) : (s.logBus es).kind = s.kind := rfl

theorem State.storeCell_ram (a : Nat) (v : Byte) (h : s.kind a = .ram) :
    s.storeCell a v = { s with mem := Memory.write s.mem a v } := by
  simp [State.storeCell, h]

theorem State.storeCell_device (a : Nat) (v : Byte) (h : s.kind a = .device) :
    s.storeCell a v = s.logBus [.write a v] := by
  simp [State.storeCell, h]

/-- A store touches at most the addressed byte. -/
theorem State.read_storeCell_other (a : Nat) (v : Byte) {b : Nat} (h : b ≠ a) :
    Memory.read (s.storeCell a v).mem b = Memory.read s.mem b := by
  unfold State.storeCell
  split
  · exact Memory.read_write_other s.mem v h
  · rfl
  · rfl

/-- A store keeps the canonical form. -/
theorem State.wf_storeCell (a : Nat) (v : Byte) (h : Memory.wf s.mem = true) :
    Memory.wf (s.storeCell a v).mem = true := by
  unfold State.storeCell
  split
  · exact Memory.wf_write s.mem a v h
  · exact h
  · exact h

/-- A byte listed after a store was listed before, or is the byte stored, in RAM. -/
theorem State.mem_storeCell {a : Nat} {v : Byte} {c : Nat × Byte} (h : c ∈ (s.storeCell a v).mem) :
    (c = (a, v) ∧ s.kind a = .ram) ∨ c ∈ s.mem := by
  unfold State.storeCell at h
  split at h
  · rename_i hk
    exact (Memory.mem_write h).imp (fun e => ⟨e, hk⟩) id
  · exact .inr h
  · exact .inr h

/-- A write of a service register: its implemented bits there, the others as they were. -/
theorem State.get_writeSr (n m : SvcReg) (v : Byte) :
    (s.writeSr n v).sr.get m = if m = n then v &&& s.platform.srMask.get n else s.sr.get m := by
  simp only [State.writeSr_sr, Vector.get_eq_getElem, Vector.getElem_set, Fin.ext_iff, eq_comm (a := n.val)]

end

section
variable {s t : State} {dst src : Operand}

theorem readModifyWrite_of_present {f : Byte → Flags → Alu} (h : s.present (s.ea .dst dst) = true) :
    readModifyWrite dst f s =
      .next ((((s.logBus (s.readEvents (s.ea .dst dst))).storeCell (s.ea .dst dst)
        (f (s.cellValue .dst (s.ea .dst dst)) s.flags).value).setFlags
        (f (s.cellValue .dst (s.ea .dst dst)) s.flags).flags).advance) := by
  simp [readModifyWrite, h]

theorem readTest_of_present {f : Byte → Alu} (h : s.present (s.ea .dst dst) = true) :
    readTest dst f s =
      .next (((s.logBus (s.readEvents (s.ea .dst dst))).setFlags
        (f (s.cellValue .dst (s.ea .dst dst))).flags).advance) := by
  simp [readTest, h]

theorem writeOnly_of_present {r : Alu} (h : s.present (s.ea .dst dst) = true) :
    writeOnly dst r s = .next (((s.storeCell (s.ea .dst dst) r.value).setFlags r.flags).advance) := by
  simp [writeOnly, h]

theorem moveCell_of_present {f : Byte → Flags → Alu} (hs : s.present (s.ea .src src) = true)
    (hd : s.present (s.ea .dst dst) = true) :
    moveCell dst src f s =
      .next ((((s.logBus (s.readEvents (s.ea .src src))).storeCell (s.ea .dst dst)
        (f (s.cellValue .src (s.ea .src src)) s.flags).value).setFlags
        (f (s.cellValue .src (s.ea .src src)) s.flags).flags).advance) := by
  simp [moveCell, hs, hd]

theorem combineCells_of_present {f : Byte → Byte → Alu} (hs : s.present (s.ea .src src) = true)
    (hd : s.present (s.ea .dst dst) = true) :
    combineCells dst src f s =
      .next ((((s.logBus (s.pairEvents (s.ea .src src) (s.ea .dst dst))).storeCell (s.ea .dst dst)
        (f (s.pairDst (s.ea .src src) (s.ea .dst dst)) (s.cellValue .src (s.ea .src src))).value).setFlags
        (f (s.pairDst (s.ea .src src) (s.ea .dst dst)) (s.cellValue .src (s.ea .src src))).flags).advance) := by
  simp [combineCells, hs, hd]

theorem compareCells_of_present {f : Byte → Byte → Alu} (hs : s.present (s.ea .src src) = true)
    (hd : s.present (s.ea .dst dst) = true) :
    compareCells dst src f s =
      .next (((s.logBus (s.pairEvents (s.ea .src src) (s.ea .dst dst))).setFlags
        (f (s.pairDst (s.ea .src src) (s.ea .dst dst)) (s.cellValue .src (s.ea .src src))).flags).advance) := by
  simp [compareCells, hs, hd]

/-- The other direction: a pattern that answers a next state had its cells, and the state is the one above. -/
theorem readModifyWrite_next {f : Byte → Flags → Alu} (h : readModifyWrite dst f s = .next t) :
    s.present (s.ea .dst dst) = true := by
  by_contra hp
  simp [readModifyWrite, hp] at h

theorem readTest_next {f : Byte → Alu} (h : readTest dst f s = .next t) : s.present (s.ea .dst dst) = true := by
  by_contra hp
  simp [readTest, hp] at h

theorem writeOnly_next {r : Alu} (h : writeOnly dst r s = .next t) : s.present (s.ea .dst dst) = true := by
  by_contra hp
  simp [writeOnly, hp] at h

theorem moveCell_next {f : Byte → Flags → Alu} (h : moveCell dst src f s = .next t) :
    s.present (s.ea .src src) = true ∧ s.present (s.ea .dst dst) = true := by
  by_contra hp
  simp [moveCell, hp] at h

theorem combineCells_next {f : Byte → Byte → Alu} (h : combineCells dst src f s = .next t) :
    s.present (s.ea .src src) = true ∧ s.present (s.ea .dst dst) = true := by
  by_contra hp
  simp [combineCells, hp] at h

theorem compareCells_next {f : Byte → Byte → Alu} (h : compareCells dst src f s = .next t) :
    s.present (s.ea .src src) = true ∧ s.present (s.ea .dst dst) = true := by
  by_contra hp
  simp [compareCells, hp] at h

end

end Sys2Proof.Machine
end

