-- ==== Sys2Proof/Laws/Patterns.lean ====
section
/-! SUPPORT. What each access pattern of rule R57 answers on defined addresses, in the terms of Safety.lean: the
store, RS, and the frame, said once for all instructions of a shape. -/

namespace Sys2Proof.Machine

variable {s : State} {dst src : Operand}

theorem State.present_iff {a : Nat} : s.present a = true ↔ s.kind a ≠ .absent := by
  simp [State.present]

/-- A store after device reads, then RS and pc. -/
theorem stores_of_storeCell (es : List BusEvent) (a : Nat) (v : Byte) (f : Flags) :
    Stores s ((((s.logBus es).storeCell a v).setFlags f).advance) es a v ∧
      DataFrame s ((((s.logBus es).storeCell a v).setFlags f).advance) := by
  unfold State.storeCell
  rw [State.kind_logBus]
  split
  · rename_i hk
    refine ⟨⟨fun _ => ⟨Memory.read_write_same _ _ _, rfl⟩, fun h => absurd (hk.symm.trans h) (by decide),
      fun b hb => Memory.read_write_other _ _ hb⟩, rfl⟩
  · rename_i hk
    exact ⟨⟨fun h => absurd (hk.symm.trans h) (by decide), fun _ => ⟨rfl, rfl⟩, fun _ _ => rfl⟩, rfl⟩
  · rename_i hk
    exact ⟨⟨fun h => absurd (hk.symm.trans h) (by decide), fun h => absurd (hk.symm.trans h) (by decide),
      fun _ _ => rfl⟩, rfl⟩

theorem State.logBus_nil : s.logBus [] = s := by
  simp [State.logBus]

/-- The status register after a store: the flags given, the rest as before. -/
theorem rs_of_storeCell (es : List BusEvent) (a : Nat) (v : Byte) (f : Flags) :
    ((((s.logBus es).storeCell a v).setFlags f).advance).rs = withFlags s.rs f := by
  unfold State.storeCell; split <;> rfl

theorem readModifyWrite_spec (f : Byte → Flags → Alu) (h : s.kind (s.ea .dst dst) ≠ .absent) :
    ∃ t, readModifyWrite dst f s = .next t ∧
      Stores s t (s.readEvents (s.ea .dst dst)) (s.ea .dst dst) (f (s.cellValue .dst (s.ea .dst dst)) s.flags).value ∧
      t.rs = withFlags s.rs (f (s.cellValue .dst (s.ea .dst dst)) s.flags).flags ∧ DataFrame s t :=
  ⟨_, readModifyWrite_of_present (State.present_iff.2 h), (stores_of_storeCell _ _ _ _).1, rs_of_storeCell _ _ _ _,
    (stores_of_storeCell _ _ _ _).2⟩

theorem readTest_spec (f : Byte → Alu) (h : s.kind (s.ea .dst dst) ≠ .absent) :
    ∃ t, readTest dst f s = .next t ∧ StoresNothing s t (s.readEvents (s.ea .dst dst)) ∧
      t.rs = withFlags s.rs (f (s.cellValue .dst (s.ea .dst dst))).flags ∧ DataFrame s t :=
  ⟨_, readTest_of_present (State.present_iff.2 h), ⟨rfl, rfl⟩, rfl, rfl⟩

theorem writeOnly_spec (r : Alu) (h : s.kind (s.ea .dst dst) ≠ .absent) :
    ∃ t, writeOnly dst r s = .next t ∧ Stores s t [] (s.ea .dst dst) r.value ∧
      t.rs = withFlags s.rs r.flags ∧ DataFrame s t := by
  refine ⟨_, writeOnly_of_present (State.present_iff.2 h), ?_⟩
  have h1 := stores_of_storeCell (s := s) [] (s.ea .dst dst) r.value r.flags
  have h2 := rs_of_storeCell (s := s) [] (s.ea .dst dst) r.value r.flags
  rw [State.logBus_nil] at h1 h2
  exact ⟨h1.1, h2, h1.2⟩

theorem moveCell_spec (f : Byte → Flags → Alu) (hs : s.kind (s.ea .src src) ≠ .absent)
    (hd : s.kind (s.ea .dst dst) ≠ .absent) :
    ∃ t, moveCell dst src f s = .next t ∧
      Stores s t (s.readEvents (s.ea .src src)) (s.ea .dst dst) (f (s.cellValue .src (s.ea .src src)) s.flags).value ∧
      t.rs = withFlags s.rs (f (s.cellValue .src (s.ea .src src)) s.flags).flags ∧ DataFrame s t :=
  ⟨_, moveCell_of_present (State.present_iff.2 hs) (State.present_iff.2 hd), (stores_of_storeCell _ _ _ _).1,
    rs_of_storeCell _ _ _ _, (stores_of_storeCell _ _ _ _).2⟩

theorem combineCells_spec (f : Byte → Byte → Alu) (hs : s.kind (s.ea .src src) ≠ .absent)
    (hd : s.kind (s.ea .dst dst) ≠ .absent) :
    ∃ t, combineCells dst src f s = .next t ∧
      Stores s t (s.pairEvents (s.ea .src src) (s.ea .dst dst)) (s.ea .dst dst)
        (f (s.pairDst (s.ea .src src) (s.ea .dst dst)) (s.cellValue .src (s.ea .src src))).value ∧
      t.rs = withFlags s.rs (f (s.pairDst (s.ea .src src) (s.ea .dst dst)) (s.cellValue .src (s.ea .src src))).flags ∧
      DataFrame s t :=
  ⟨_, combineCells_of_present (State.present_iff.2 hs) (State.present_iff.2 hd), (stores_of_storeCell _ _ _ _).1,
    rs_of_storeCell _ _ _ _, (stores_of_storeCell _ _ _ _).2⟩

theorem compareCells_spec (f : Byte → Byte → Alu) (hs : s.kind (s.ea .src src) ≠ .absent)
    (hd : s.kind (s.ea .dst dst) ≠ .absent) :
    ∃ t, compareCells dst src f s = .next t ∧
      StoresNothing s t (s.pairEvents (s.ea .src src) (s.ea .dst dst)) ∧
      t.rs = withFlags s.rs (f (s.pairDst (s.ea .src src) (s.ea .dst dst)) (s.cellValue .src (s.ea .src src))).flags ∧
      DataFrame s t :=
  ⟨_, compareCells_of_present (State.present_iff.2 hs) (State.present_iff.2 hd), ⟨rfl, rfl⟩, rfl, rfl⟩

/-- RS after the condition flags are written, as the claims say it. -/
theorem rsIs_withFlags (rs : Byte) (f : Flags) :
    RsIs rs (withFlags rs f) f.carry f.zero f.sign f.overflow f.digit := by
  simp only [RsIs, getLsbD_withFlags]
  exact ⟨rfl, rfl, rfl, rfl, rfl, rfl, rfl, rfl⟩

end Sys2Proof.Machine
end

