-- ==== Sys2Proof/Laws/Arith.lean ====
section
/-! SUPPORT. The adders against R12 and R13: the flags that add8 and sub8 leave are those of the exact sum and
difference. -/

namespace Sys2Proof.Machine

/-- Bit 7 of a byte is its sign. -/
theorem getLsbD_seven (a : Byte) : a.getLsbD 7 = decide (128 ≤ a.toNat) := by
  have := BitVec.msb_eq_decide a
  simpa [BitVec.msb_eq_getLsbD_last] using this

/-- A byte as a signed number. -/
theorem toInt_byte (a : Byte) : a.toInt = if a.toNat < 128 then (a.toNat : Int) else a.toNat - 256 := by
  rw [BitVec.toInt_eq_toNat_cond]
  split <;> split <;> omega

/-- R12, R113: RS after add8 is the addition's. -/
theorem rsAfterAdd_add8 (rs a b : Byte) (c : Bool) : RsAfterAdd rs (withFlags rs (add8 a b c).flags) a b c := by
  have h := rsIs_withFlags rs (add8 a b c).flags
  unfold RsAfterAdd
  have ha := a.isLt; have hb := b.isLt; have hc : c.toNat ≤ 1 := by cases c <;> simp
  have e2 : (decide ((a.toNat + b.toNat + c.toNat) % 256 = 0)) = (add8 a b c).flags.zero := by
    simp only [add8, aluResult_zero]
    rw [Bool.eq_iff_iff]; simp [BitVec.toNat_eq]
  have e3 : (decide (128 ≤ (a.toNat + b.toNat + c.toNat) % 256)) = (add8 a b c).flags.sign := by
    simp only [add8, aluResult_sign, getLsbD_seven, BitVec.toNat_ofNat]
  have e4 : (decide (a.toInt + b.toInt + c.toNat < -128 ∨ 127 < a.toInt + b.toInt + c.toNat)) = (add8 a b c).flags.overflow := by
    simp only [add8, aluResult_overflow, getLsbD_seven, BitVec.toNat_ofNat, toInt_byte]
    generalize a.toNat = x at *; generalize b.toNat = y at *; generalize c.toNat = z at *
    rw [Bool.eq_iff_iff]
    simp only [decide_eq_true_eq, Bool.and_eq_true, beq_iff_eq, bne_iff_ne, ne_eq, decide_eq_decide]
    split <;> split <;> omega
  rw [e2, e3, e4]; exact h

/-- R13, R114: RS after sub8 is the subtraction's. -/
theorem rsAfterSub_sub8 (rule : OfSubRule) (rs a b : Byte) (c : Bool) :
    RsAfterSub rule rs (withFlags rs (sub8 rule a b c).flags) a b c := by
  have h := rsIs_withFlags rs (sub8 rule a b c).flags
  unfold RsAfterSub
  have ha := a.isLt; have hb := b.isLt; have hc : c.toNat ≤ 1 := by cases c <;> simp
  have e0 : (BitVec.ofInt 8 ((a.toNat : Int) - b.toNat - c.toNat)).toNat = (((a.toNat : Int) - b.toNat - c.toNat) % 256).toNat := by
    simp [BitVec.toNat_ofInt]
  have e1 : decide (a.toNat < b.toNat + c.toNat) = (sub8 rule a b c).flags.carry := by
    simp only [sub8, aluResult_carry]; rw [Bool.eq_iff_iff]; simp; omega
  have e2 : (decide (((a.toNat : Int) - b.toNat - c.toNat) % 256 = 0)) = (sub8 rule a b c).flags.zero := by
    simp only [sub8, aluResult_zero]
    rw [Bool.eq_iff_iff]; simp only [decide_eq_true_eq, beq_iff_eq, BitVec.toNat_eq, e0]
    simp; omega
  have e3 : (decide (128 ≤ ((a.toNat : Int) - b.toNat - c.toNat) % 256)) = (sub8 rule a b c).flags.sign := by
    simp only [sub8, aluResult_sign, getLsbD_seven, e0]; rw [Bool.eq_iff_iff]; simp only [decide_eq_true_eq]; omega
  have e4 : OfAfterSub rule a b c = (sub8 rule a b c).flags.overflow := by
    simp only [sub8, aluResult_overflow]
    cases rule with
    | addStyle => simp [OfAfterSub, subOverflow]
    | signedOverflow =>
      simp only [OfAfterSub, subOverflow, getLsbD_seven, e0, toInt_byte]
      generalize a.toNat = x at *; generalize b.toNat = y at *; generalize c.toNat = z at *
      by_cases h1 : 128 ≤ x <;> by_cases h2 : 128 ≤ y <;> by_cases h3 : 128 ≤ (((x:Int)-y-z) % 256).toNat <;>
        simp [h1, h2, h3, Nat.not_lt.2, Nat.lt_of_not_le] <;> omega
  have e5 : (decide (a.toNat % 16 < b.toNat % 16 + c.toNat)) = (sub8 rule a b c).flags.digit := by
    simp only [sub8, aluResult_digit]; rw [Bool.eq_iff_iff]; simp; omega
  rw [e1, e2, e3, e4, e5]; exact h

end Sys2Proof.Machine
end

