-- ==== Sys2Proof/Laws/Decode.lean ====
section
/-! SUPPORT. Fields of a word given as a number: what the proofs about decoding and encoding cite. -/

namespace Sys2Proof

@[simp] theorem Seg.ofBits_bits (k : Seg) : Seg.ofBits k.bits = k := by cases k <;> rfl

@[simp] theorem Seg.bits_ofBits (k : BitVec 2) : (Seg.ofBits k).bits = k := by revert k; decide

@[simp] theorem Operand.ofBits_bits (o : Operand) : Operand.ofBits o.bits = o := by
  obtain ⟨k, i⟩ := o
  cases k <;> revert i <;> decide

@[simp] theorem Operand.bits_ofBits (f : BitVec 5) : (Operand.ofBits f).bits = f := by revert f; decide

@[simp] theorem Place.ofBit_bit (p : Place) : Place.ofBit (decide (p.bit = 1)) = p := by cases p <;> rfl

theorem Operand.bits_lt (o : Operand) : o.bits.toNat < 32 := o.bits.isLt

theorem Place.bit_lt (p : Place) : p.bit < 2 := by cases p <;> decide

/-- A field of a word, as a number. -/
theorem toNat_field (n lo len : Nat) (h : n < 65536) :
    ((BitVec.ofNat 16 n).extractLsb' lo len).toNat = n / 2 ^ lo % 2 ^ len := by
  have hn : n % 2 ^ 16 = n := Nat.mod_eq_of_lt h
  rw [BitVec.extractLsb'_toNat, BitVec.toNat_ofNat, hn, Nat.shiftRight_eq_div_pow]

/-- A field of a word is the value laid into it. -/
theorem field_eq {len : Nat} (n lo : Nat) (v : BitVec len) (h : n < 65536) (hv : n / 2 ^ lo % 2 ^ len = v.toNat) :
    (BitVec.ofNat 16 n).extractLsb' lo len = v := by
  apply BitVec.eq_of_toNat_eq
  rw [toNat_field n lo len h, hv]

/-- One bit of a word. -/
theorem bit_eq (n i : Nat) (hi : i < 16) :
    (BitVec.ofNat 16 n).getLsbD i = decide (n / 2 ^ i % 2 = 1) := by
  rw [BitVec.getLsbD_ofNat, Nat.testBit_eq_decide_div_mod_eq]
  simp [hi]

theorem lowOperand_eq (n : Nat) (o : Operand) (h : n < 65536) (ho : n % 32 = o.bits.toNat) :
    lowOperand (BitVec.ofNat 16 n) = o := by
  rw [lowOperand, field_eq n 0 o.bits h (by simpa using ho), Operand.ofBits_bits]

theorem srcOperand_eq (n : Nat) (o : Operand) (h : n < 65536) (ho : n / 32 % 32 = o.bits.toNat) :
    srcOperand (BitVec.ofNat 16 n) = o := by
  rw [srcOperand, field_eq n 5 o.bits h (by simpa using ho), Operand.ofBits_bits]

theorem placeField_eq (n : Nat) (p : Place) (hp : n / 512 % 2 = p.bit) :
    placeField (BitVec.ofNat 16 n) = p := by
  rw [placeField, bit_eq n 9 (by decide), show (2 : Nat) ^ 9 = 512 from rfl, hp, Place.ofBit_bit]

/-- A word under a mask that keeps its bits from k up. -/
theorem and_mask (n k : Nat) :
    BitVec.ofNat 16 n &&& (BitVec.allOnes 16 <<< k) = BitVec.ofNat 16 (n / 2 ^ k * 2 ^ k) := by
  apply BitVec.eq_of_getLsbD_eq
  intro i hi
  have hle : n / 2 ^ k * 2 ^ k = (n >>> k) <<< k := by
    rw [Nat.shiftRight_eq_div_pow, Nat.shiftLeft_eq]
  rw [BitVec.getLsbD_and, BitVec.getLsbD_ofNat, BitVec.getLsbD_ofNat, hle, Nat.testBit_shiftLeft, Nat.testBit_shiftRight,
    BitVec.getLsbD_shiftLeft, BitVec.getLsbD_allOnes]
  by_cases hik : k ≤ i
  · simp [hi, hik, Nat.not_lt.2 hik, show i - k < 16 by omega]
  · simp [hi, hik]

end Sys2Proof
end

