-- ==== Sys2Proof/Laws/Step.lean ====
section
/-! SUPPORT. What acceptance and one step can do, said once. -/

namespace Sys2Proof.Machine

/-- The candidates are the sources that are pending and enabled. -/
theorem State.mem_candidates {s : State} {src : IntSource} :
    src ∈ s.candidates ↔ s.isPending src = true ∧ s.isEnabled src = true := by
  simp only [State.candidates, List.mem_filter, Bool.and_eq_true, and_iff_right_iff_imp]
  rintro ⟨hp, -⟩
  cases src with
  | stackError => exact List.mem_cons_self
  | external n =>
    refine List.mem_cons_of_mem _ ?_
    cases he : s.env with
    | nil => simp [State.isPending, he] at hp
    | cons b bs => simpa [State.isPending, State.pendingExternal, he] using hp

/-- A source picked out of a list is in it, and none is picked only from the empty list. -/
theorem State.pickSource_mem {s : State} {l : List IntSource} {src : IntSource} (h : s.pickSource l = some src) :
    src ∈ l :=
  List.mem_of_getElem? h

theorem State.pickSource_eq_none {s : State} {l : List IntSource} : s.pickSource l = none ↔ l = [] := by
  cases l with
  | nil => simp [State.pickSource]
  | cons a l =>
    simp only [State.pickSource, List.getElem?_eq_none_iff, reduceCtorEq, iff_false, Nat.not_le]
    exact Nat.mod_lt _ (Nat.succ_pos _)

theorem State.pickSource_singleton (s : State) (src : IntSource) : s.pickSource [src] = some src := by
  simp [State.pickSource, Nat.mod_one]

/-- What the environment lets in is a candidate. -/
theorem State.offered_mem {s : State} {src : IntSource} (h : s.offered = some src) : src ∈ s.candidates := by
  unfold State.offered at h
  split at h
  · cases h
  · split at h
    · cases h
    · split at h
      · rename_i hc
        cases h
        exact State.mem_candidates.2 (by simpa using hc)
      · cases h

/-- Everything acceptance can do: enter a candidate; pass over them all only in a running core. -/
theorem State.accepted_cases (s : State) :
    (∃ src, s.accepted = some src ∧ src ∈ s.candidates ∧ (s.run = .running → s.offered = some src)) ∨
    (s.accepted = none ∧ s.offered = none ∧ (s.run ≠ .running → s.candidates = [])) := by
  unfold State.accepted
  cases ho : s.offered with
  | some src => exact .inl ⟨src, rfl, State.offered_mem ho, fun _ => rfl⟩
  | none =>
    cases hr : s.run with
    | running => exact .inr ⟨rfl, rfl, by simp⟩
    | waiting | stopped =>
      cases hk : s.pickSource s.candidates with
      | some src => exact .inl ⟨src, rfl, State.pickSource_mem hk, by simp⟩
      | none => exact .inr ⟨rfl, rfl, fun _ => State.pickSource_eq_none.1 hk⟩

/-- Everything a step that answers a next state can have done (R260): entered an interrupt, run the instruction at
pc, or let a boundary pass while waiting or stopped. -/
theorem step_cases {s t : State} (h : step s = .next t) :
    (∃ src, s.accepted = some src ∧ t = (s.enterInterrupt src).endBoundary) ∨
    (∃ i u, s.accepted = none ∧ s.run = .running ∧ s.fetchInstr = .next i ∧ exec i s = .next u ∧ t = u.endBoundary) ∨
    (s.accepted = none ∧ s.run ≠ .running ∧ t = s.endBoundary) := by
  unfold step at h
  split at h
  · rename_i src ha
    exact .inl ⟨src, ha, by simpa using h.symm⟩
  · rename_i ha
    split at h
    · rename_i hr
      unfold runInstr at h
      split at h
      · rename_i i hf
        cases hx : exec i s with
        | next u => exact .inr (.inl ⟨i, u, ha, hr, hf, hx, by simpa [hx, retireResult] using h.symm⟩)
        | fault f => simp [hx, retireResult] at h
        | refused r => simp [hx, retireResult] at h
      · cases h
      · cases h
    · rename_i hr
      exact .inr (.inr ⟨ha, by simp [hr], by simpa using h.symm⟩)
    · rename_i hr
      exact .inr (.inr ⟨ha, by simp [hr], by simpa using h.symm⟩)

/-- With nothing accepted and the core running, a step is the fetched instruction, then the boundary is over. -/
theorem step_of_fetch {s : State} {i : Instr} (ha : s.accepted = none) (hr : s.run = .running)
    (hf : s.fetchInstr = .next i) : step s = retireResult (exec i s) := by
  simp [step, ha, hr, runInstr, hf]

/-- What the fetch answers an instruction for. -/
theorem fetchInstr_next {s : State} {i : Instr} (h : s.fetchInstr = .next i) :
    ∃ w, s.pc.toNat < s.platform.pmemWords ∧ Memory.read s.pmem s.pc.toNat = some w ∧ decode w = .ok i := by
  unfold State.fetchInstr at h
  split at h
  · cases h
  · rename_i hp
    split at h
    · cases h
    · rename_i w hw
      split at h
      · rename_i j hj
        exact ⟨w, Nat.lt_of_not_le hp, hw, by simpa [hj] using h⟩
      · cases h
      · cases h

/-- k + 1 steps of a machine: one, then k from where it leads. -/
theorem core_run_succ (M : Host.Core) (k : Nat) (s : M.State) :
    M.run (k + 1) s =
      match M.step s with
      | .next t => M.run k t
      | .fault f => .fault f
      | .refused r => .refused r := by
  cases h : M.step s <;> simp only [Host.Core.run, h]

theorem run_succ_of_next {s t : State} (k : Nat) (h : step s = .next t) :
    Sys2Proof.core.run (k + 1) s = Sys2Proof.core.run k t := by
  have e := core_run_succ Sys2Proof.core k s
  rw [show Sys2Proof.core.step s = .next t from h] at e
  exact e

theorem run_succ_next {s u : State} {k : Nat} (h : Sys2Proof.core.run (k + 1) s = .next u) :
    ∃ t, step s = .next t ∧ Sys2Proof.core.run k t = .next u := by
  have e := (core_run_succ Sys2Proof.core k s).symm.trans h
  cases hs : step s with
  | next t => rw [show Sys2Proof.core.step s = .next t from hs] at e; exact ⟨t, rfl, e⟩
  | fault f => rw [show Sys2Proof.core.step s = .fault f from hs] at e; cases e
  | refused r => rw [show Sys2Proof.core.step s = .refused r from hs] at e; cases e

end Sys2Proof.Machine
end

