-- ==== Sys2Proof/Laws/Frames.lean ====
section
/-! SUPPORT. The frame of each shape of instruction, from the fact alone that exec answered a next state, and the
stack cells a step keeps. -/

namespace Sys2Proof.Machine

variable {s t : State} {dst src : Operand}

/-- What an instruction that works on data operands and flags can change. -/
structure DataStep (s t : State) : Prop where
  /-- RS changes in its condition flags only. -/
  flags : ∃ f, t.rs = withFlags s.rs f
  /-- Nothing but pc, RS, data memory and the device accesses changes, and pc moves to the next word. -/
  frame : DataFrame s t
  /-- Data memory and the device accesses change as one store after some device reads, or as device reads alone. -/
  store : ∃ es, StoresNothing s t es ∨ ∃ a v, s.kind a ≠ .absent ∧
    a < 2 ^ s.platform.daddrBits ∧ Stores s t es a v ∧ t.mem = (s.storeCell a v).mem

theorem mem_of_storeCell (es : List BusEvent) (a : Nat) (v : Byte) (f : Flags) :
    ((((s.logBus es).storeCell a v).setFlags f).advance).mem = (s.storeCell a v).mem := by
  unfold State.storeCell; rw [State.kind_logBus]; split <;> rfl

/-- A store after device reads, then RS and pc, is a data step. -/
theorem dataStep_of_storeCell (es : List BusEvent) (v : Byte) (f : Flags) (h : s.present (s.ea .dst dst) = true) :
    DataStep s ((((s.logBus es).storeCell (s.ea .dst dst) v).setFlags f).advance) :=
  ⟨⟨f, rs_of_storeCell _ _ _ _⟩, (stores_of_storeCell _ _ _ _).2,
    ⟨es, .inr ⟨s.ea .dst dst, v, State.present_iff.1 h, s.ea_lt _ _, (stores_of_storeCell _ _ _ _).1,
      mem_of_storeCell _ _ _ _⟩⟩⟩

theorem readModifyWrite_dataStep {f : Byte → Flags → Alu} (h : readModifyWrite dst f s = .next t) : DataStep s t := by
  have hp := readModifyWrite_next h
  rw [readModifyWrite_of_present hp] at h
  cases h
  exact dataStep_of_storeCell _ _ _ hp

theorem readTest_dataStep {f : Byte → Alu} (h : readTest dst f s = .next t) : DataStep s t := by
  rw [readTest_of_present (readTest_next h)] at h
  cases h
  exact ⟨⟨_, rfl⟩, rfl, ⟨_, .inl ⟨rfl, rfl⟩⟩⟩

theorem writeOnly_dataStep {r : Alu} (h : writeOnly dst r s = .next t) : DataStep s t := by
  have hp := writeOnly_next h
  rw [writeOnly_of_present hp] at h
  cases h
  have h1 := dataStep_of_storeCell (s := s) [] r.value r.flags hp
  rwa [State.logBus_nil] at h1

theorem moveCell_dataStep {f : Byte → Flags → Alu} (h : moveCell dst src f s = .next t) : DataStep s t := by
  have hp := moveCell_next h
  rw [moveCell_of_present hp.1 hp.2] at h
  cases h
  exact dataStep_of_storeCell _ _ _ hp.2

theorem combineCells_dataStep {f : Byte → Byte → Alu} (h : combineCells dst src f s = .next t) : DataStep s t := by
  have hp := combineCells_next h
  rw [combineCells_of_present hp.1 hp.2] at h
  cases h
  exact dataStep_of_storeCell _ _ _ hp.2

theorem compareCells_dataStep {f : Byte → Byte → Alu} (h : compareCells dst src f s = .next t) : DataStep s t := by
  have hp := compareCells_next h
  rw [compareCells_of_present hp.1 hp.2] at h
  cases h
  exact ⟨⟨_, rfl⟩, rfl, ⟨_, .inl ⟨rfl, rfl⟩⟩⟩

/-- The instructions of 41_two_operand.md, 42_literal.md and 43_one_operand.md. -/
def plainData : Instr → Bool
  | .mov .. | .cmp .. | .add .. | .sub .. | .and .. | .or .. | .xor .. => true
  | .movl .. | .cmpl .. | .addl .. | .subl .. | .bic .. | .bis .. | .btg .. | .btt .. => true
  | .swap .. | .neg .. | .not .. | .shl .. | .shr .. | .shra .. | .rlc .. | .rrc .. | .adc .. | .sbc .. => true
  | _ => false

theorem exec_dataStep {i : Instr} (hd : plainData i = true) (h : exec i s = .next t) : DataStep s t := by
  cases i with
  | mov d k => simp only [exec, execMov] at h; exact moveCell_dataStep h
  | cmp d k => simp only [exec, execCmp] at h; exact compareCells_dataStep h
  | add d k => simp only [exec, execAdd] at h; exact combineCells_dataStep h
  | sub d k => simp only [exec, execSub] at h; exact combineCells_dataStep h
  | and d k => simp only [exec, execAnd] at h; exact combineCells_dataStep h
  | or d k => simp only [exec, execOr] at h; exact combineCells_dataStep h
  | xor d k => simp only [exec, execXor] at h; exact combineCells_dataStep h
  | movl d k => simp only [exec, execMovl] at h; exact writeOnly_dataStep h
  | cmpl d k => simp only [exec, execCmpl] at h; exact readTest_dataStep h
  | btt d p k => simp only [exec, execBtt] at h; exact readTest_dataStep h
  | addl d k => simp only [exec, execAddl] at h; exact readModifyWrite_dataStep h
  | subl d k => simp only [exec, execSubl] at h; exact readModifyWrite_dataStep h
  | bic d p k => simp only [exec, execBic] at h; exact readModifyWrite_dataStep h
  | bis d p k => simp only [exec, execBis] at h; exact readModifyWrite_dataStep h
  | btg d p k => simp only [exec, execBtg] at h; exact readModifyWrite_dataStep h
  | swap d => simp only [exec, execSwap] at h; exact readModifyWrite_dataStep h
  | neg d => simp only [exec, execNeg] at h; exact readModifyWrite_dataStep h
  | not d => simp only [exec, execNot] at h; exact readModifyWrite_dataStep h
  | shl d => simp only [exec, execShl] at h; exact readModifyWrite_dataStep h
  | shr d => simp only [exec, execShr] at h; exact readModifyWrite_dataStep h
  | shra d => simp only [exec, execShra] at h; exact readModifyWrite_dataStep h
  | rlc d => simp only [exec, execRlc] at h; exact readModifyWrite_dataStep h
  | rrc d => simp only [exec, execRrc] at h; exact readModifyWrite_dataStep h
  | adc d => simp only [exec, execAdc] at h; exact readModifyWrite_dataStep h
  | sbc d => simp only [exec, execSbc] at h; exact readModifyWrite_dataStep h
  | _ => cases hd

theorem execMtpr_next {n : SvcReg} {o : Operand} (h : execMtpr n o s = .next t) :
    t = ((s.logBus (s.readEvents (s.ea .src o))).writeSr n (s.cellValue .src (s.ea .src o))).advance := by
  simp only [execMtpr] at h
  split at h <;> cases h
  rfl

theorem execMfpr_next {n : SvcReg} {o : Operand} (h : execMfpr o n s = .next t) :
    s.present (s.ea .dst o) = true ∧ t = (s.storeCell (s.ea .dst o) (s.readSr n)).advance := by
  simp only [execMfpr] at h
  split at h <;> cases h
  exact ⟨‹_›, rfl⟩

/-- A store changes data memory and the device accesses only. -/
theorem State.storeCell_frame (a : Nat) (v : Byte) :
    s.storeCell a v = { s with mem := (s.storeCell a v).mem, bus := (s.storeCell a v).bus } := by
  unfold State.storeCell; split <;> rfl

/-- IE and bits 7:6 are no condition flags. -/
theorem withFlags_keeps (rs : Byte) (f : Flags) :
    (withFlags rs f).getLsbD 3 = rs.getLsbD 3 ∧ (withFlags rs f).getLsbD 6 = rs.getLsbD 6 ∧
      (withFlags rs f).getLsbD 7 = rs.getLsbD 7 := by
  simp only [getLsbD_withFlags]; exact ⟨rfl, rfl, rfl⟩

theorem getLsbD_withIe (rs : Byte) (b : Bool) (j : Nat) :
    (withIe rs b).getLsbD j = if j = 3 then b else rs.getLsbD j :=
  getLsbD_putBit rs 3 j b (by decide)

/-- A call writes no cell of the command stack but the one at the pointer. -/
theorem State.call_other (a : PAddr) {k : Fin 8} (h : k ≠ s.isp) : (s.call a).istack.get k = s.istack.get k := by
  simpa [State.call] using s.ipush_other (s.pc + 1) h

/-- An instruction writes no cell of either stack but those at the pointers. -/
theorem exec_other_cells {i : Instr} (h : exec i s = .next t) :
    (∀ k, k ≠ s.isp → t.istack.get k = s.istack.get k) ∧ (∀ k, k ≠ s.dsp → t.dstack.get k = s.dstack.get k) := by
  by_cases hp : plainData i = true
  · rw [(exec_dataStep hp h).frame]
    exact ⟨fun _ _ => rfl, fun _ _ => rfl⟩
  · cases i <;> try (exact absurd rfl hp)
    case mtpr => rw [execMtpr_next h]; exact ⟨fun _ _ => rfl, fun _ _ => rfl⟩
    case mfpr => rw [(execMfpr_next h).2, State.storeCell_frame]; exact ⟨fun _ _ => rfl, fun _ _ => rfl⟩
    case jsr => cases h; exact ⟨fun _ hk => s.call_other _ hk, fun _ _ => by simp⟩
    case ijsr => cases h; exact ⟨fun _ hk => s.call_other _ hk, fun _ _ => by simp⟩
    case push => cases h; exact ⟨fun _ _ => by simp, fun _ hk => s.dpush_other _ hk⟩
    all_goals (cases h; exact ⟨fun _ _ => by simp, fun _ _ => by simp⟩)

/-- Nor does a step. -/
theorem step_other_cells (h : step s = .next t) :
    (∀ k, k ≠ s.isp → t.istack.get k = s.istack.get k) ∧ (∀ k, k ≠ s.dsp → t.dstack.get k = s.dstack.get k) := by
  rcases step_cases h with ⟨src, -, rfl⟩ | ⟨i, u, -, -, -, hx, rfl⟩ | ⟨-, -, rfl⟩
  · exact s.enterInterrupt_other src
  · exact exec_other_cells (t := u) hx
  · exact ⟨fun _ _ => rfl, fun _ _ => rfl⟩

end Sys2Proof.Machine
end

