-- ==== Sys2Proof/Laws/PerInstr.lean ====
section
/-! SUPPORT. Per instruction: its word lies in its own row of Table 8 (rule R96 of spec/30_encoding.md: a word w is
the instruction iff w and mask = match). -/

namespace Sys2Proof

theorem and_mask_eq (n k base : Nat) (h : n / 2 ^ k * 2 ^ k = base) :
    BitVec.ofNat 16 n &&& (BitVec.allOnes 16 <<< k) = BitVec.ofNat 16 base := by
  rw [and_mask, h]

theorem rowF2 (base : Nat) (h : base % 1024 = 0) (d s : Operand) :
    encodeF2 base d s &&& 0xFC00#16 = BitVec.ofNat 16 base :=
  and_mask_eq _ 10 _ (by have := d.bits_lt; have := s.bits_lt; omega)

theorem rowFL8 (base : Nat) (h : base % 8192 = 0) (d : Operand) (k : Byte) :
    encodeFL base d k.toNat &&& 0xE000#16 = BitVec.ofNat 16 base :=
  and_mask_eq _ 13 _ (by have := d.bits_lt; have := k.isLt; omega)

theorem rowFL5 (base : Nat) (h : base % 1024 = 0) (d : Operand) (k : BitVec 5) :
    encodeFL base d k.toNat &&& 0xFC00#16 = BitVec.ofNat 16 base :=
  and_mask_eq _ 10 _ (by have := d.bits_lt; have := k.isLt; omega)

theorem rowFL4 (base : Nat) (h : base % 1024 = 0) (d : Operand) (p : Place) (t : BitVec 4) :
    encodeFL4 base d p t &&& 0xFC00#16 = BitVec.ofNat 16 base :=
  and_mask_eq _ 10 _ (by have := d.bits_lt; have := p.bit_lt; have := t.isLt; omega)

theorem rowF1 (base : Nat) (h : base % 32 = 0) (d : Operand) :
    encodeF1 base d &&& 0xFFE0#16 = BitVec.ofNat 16 base :=
  and_mask_eq _ 5 _ (by have := d.bits_lt; omega)

theorem rowFPR (base : Nat) (h : base % 256 = 0) (d : Operand) (n : SvcReg) :
    encodeFL base d n.val &&& 0xFF00#16 = BitVec.ofNat 16 base :=
  and_mask_eq _ 8 _ (by have := d.bits_lt; have := n.isLt; omega)

theorem rowFSTK (base : Nat) (h : base % 8 = 0) (n : SvcReg) :
    encodeLow base n.val &&& 0xFFF8#16 = BitVec.ofNat 16 base :=
  and_mask_eq _ 3 _ (by have := n.isLt; omega)

theorem rowFMSK (base : Nat) (h : base % 16 = 0) (m : BitVec 4) :
    encodeLow base m.toNat &&& 0xFFF0#16 = BitVec.ofNat 16 base :=
  and_mask_eq _ 4 _ (by have := m.isLt; omega)

theorem rowFJ (base : Nat) (h : base % 1024 = 0) (a : PAddr) :
    encodeLow base a.toNat &&& 0xFC00#16 = BitVec.ofNat 16 base :=
  and_mask_eq _ 10 _ (by have := a.isLt; omega)

theorem rowFLDR (base : Nat) (h : base % 2048 = 0) (n : SvcReg) (k : Byte) :
    encodeLow base (k.toNat * 8 + n.val) &&& 0xF800#16 = BitVec.ofNat 16 base :=
  and_mask_eq _ 11 _ (by have := n.isLt; have := k.isLt; omega)

end Sys2Proof

namespace Sys2Proof.Laws

/-- The instruction's word, under its row's mask, is its row's match. -/
def RowMatch.Statement (i : Instr) : Prop := encode i &&& i.row.2 = i.row.1

theorem RowMatch.mov (d s : Operand) : RowMatch.Statement (.mov d s) := rowF2 _ rfl d s
theorem RowMatch.cmp (d s : Operand) : RowMatch.Statement (.cmp d s) := rowF2 _ rfl d s
theorem RowMatch.add (d s : Operand) : RowMatch.Statement (.add d s) := rowF2 _ rfl d s
theorem RowMatch.sub (d s : Operand) : RowMatch.Statement (.sub d s) := rowF2 _ rfl d s
theorem RowMatch.and (d s : Operand) : RowMatch.Statement (.and d s) := rowF2 _ rfl d s
theorem RowMatch.or (d s : Operand) : RowMatch.Statement (.or d s) := rowF2 _ rfl d s
theorem RowMatch.xor (d s : Operand) : RowMatch.Statement (.xor d s) := rowF2 _ rfl d s
theorem RowMatch.movl (d : Operand) (k : Byte) : RowMatch.Statement (.movl d k) := rowFL8 _ rfl d k
theorem RowMatch.cmpl (d : Operand) (k : Byte) : RowMatch.Statement (.cmpl d k) := rowFL8 _ rfl d k
theorem RowMatch.addl (d : Operand) (k : BitVec 5) : RowMatch.Statement (.addl d k) := rowFL5 _ rfl d k
theorem RowMatch.subl (d : Operand) (k : BitVec 5) : RowMatch.Statement (.subl d k) := rowFL5 _ rfl d k
theorem RowMatch.bic (d : Operand) (p : Place) (t : BitVec 4) : RowMatch.Statement (.bic d p t) := rowFL4 _ rfl d p t
theorem RowMatch.bis (d : Operand) (p : Place) (t : BitVec 4) : RowMatch.Statement (.bis d p t) := rowFL4 _ rfl d p t
theorem RowMatch.btg (d : Operand) (p : Place) (t : BitVec 4) : RowMatch.Statement (.btg d p t) := rowFL4 _ rfl d p t
theorem RowMatch.btt (d : Operand) (p : Place) (t : BitVec 4) : RowMatch.Statement (.btt d p t) := rowFL4 _ rfl d p t
theorem RowMatch.swap (d : Operand) : RowMatch.Statement (.swap d) := rowF1 _ rfl d
theorem RowMatch.neg (d : Operand) : RowMatch.Statement (.neg d) := rowF1 _ rfl d
theorem RowMatch.not (d : Operand) : RowMatch.Statement (.not d) := rowF1 _ rfl d
theorem RowMatch.shl (d : Operand) : RowMatch.Statement (.shl d) := rowF1 _ rfl d
theorem RowMatch.shr (d : Operand) : RowMatch.Statement (.shr d) := rowF1 _ rfl d
theorem RowMatch.shra (d : Operand) : RowMatch.Statement (.shra d) := rowF1 _ rfl d
theorem RowMatch.rlc (d : Operand) : RowMatch.Statement (.rlc d) := rowF1 _ rfl d
theorem RowMatch.rrc (d : Operand) : RowMatch.Statement (.rrc d) := rowF1 _ rfl d
theorem RowMatch.adc (d : Operand) : RowMatch.Statement (.adc d) := rowF1 _ rfl d
theorem RowMatch.sbc (d : Operand) : RowMatch.Statement (.sbc d) := rowF1 _ rfl d
theorem RowMatch.ldr (n : SvcReg) (k : Byte) : RowMatch.Statement (.ldr n k) := rowFLDR _ rfl n k
theorem RowMatch.mtpr (n : SvcReg) (s : Operand) : RowMatch.Statement (.mtpr n s) := rowFPR _ rfl s n
theorem RowMatch.mfpr (d : Operand) (n : SvcReg) : RowMatch.Statement (.mfpr d n) := rowFPR _ rfl d n
theorem RowMatch.push (n : SvcReg) : RowMatch.Statement (.push n) := rowFSTK _ rfl n
theorem RowMatch.pop (n : SvcReg) : RowMatch.Statement (.pop n) := rowFSTK _ rfl n
theorem RowMatch.sst (m : BitVec 4) : RowMatch.Statement (.sst m) := rowFMSK _ rfl m
theorem RowMatch.cst (m : BitVec 4) : RowMatch.Statement (.cst m) := rowFMSK _ rfl m
theorem RowMatch.jmp (a : PAddr) : RowMatch.Statement (.jmp a) := rowFJ _ rfl a
theorem RowMatch.jsr (a : PAddr) : RowMatch.Statement (.jsr a) := rowFJ _ rfl a
theorem RowMatch.jnz (a : PAddr) : RowMatch.Statement (.jnz a) := rowFJ _ rfl a
theorem RowMatch.jz (a : PAddr) : RowMatch.Statement (.jz a) := rowFJ _ rfl a
theorem RowMatch.jns (a : PAddr) : RowMatch.Statement (.jns a) := rowFJ _ rfl a
theorem RowMatch.js (a : PAddr) : RowMatch.Statement (.js a) := rowFJ _ rfl a
theorem RowMatch.jnc (a : PAddr) : RowMatch.Statement (.jnc a) := rowFJ _ rfl a
theorem RowMatch.jc (a : PAddr) : RowMatch.Statement (.jc a) := rowFJ _ rfl a
theorem RowMatch.rtsc (c : Bool) : RowMatch.Statement (.rtsc c) := by cases c <;> rfl
theorem RowMatch.tof : RowMatch.Statement (.tof) := rfl
theorem RowMatch.tdc : RowMatch.Statement (.tdc) := rfl
theorem RowMatch.ijmp : RowMatch.Statement (.ijmp) := rfl
theorem RowMatch.ijsr : RowMatch.Statement (.ijsr) := rfl
theorem RowMatch.rts : RowMatch.Statement (.rts) := rfl
theorem RowMatch.rti : RowMatch.Statement (.rti) := rfl
theorem RowMatch.nop : RowMatch.Statement (.nop) := rfl
theorem RowMatch.wait : RowMatch.Statement (.wait) := rfl
theorem RowMatch.stop : RowMatch.Statement (.stop) := rfl
theorem RowMatch.reset : RowMatch.Statement (.reset) := rfl
theorem RowMatch.sksp : RowMatch.Statement (.sksp) := rfl

end Sys2Proof.Laws
end

