-- ==== Sys2Proof/Tests/Slice0.lean ====
section
/-! SUPPORT. The model's own tests. Words are written out from the patterns of Table 8 (rule R96 of
spec/30_encoding.md); results come from spec/95_test_vectors.md (the row or vector is named). Each `witness_<Name>`
shows a state and operands that meet the hypotheses of `Obligations.<Name>`, each clause apart. -/

namespace Sys2Proof.Tests

open Sys2Proof Sys2Proof.Machine

/-! ## Decoding: one word per constructor -/

theorem test_decode_mov : decode 0b0000011011001011 = .ok (.mov ⟨.b, 3⟩ ⟨.c, 6⟩) := by decide
theorem test_decode_cmp : decode 0b0000101011001011 = .ok (.cmp ⟨.b, 3⟩ ⟨.c, 6⟩) := by decide
theorem test_decode_add : decode 0b0001001011001011 = .ok (.add ⟨.b, 3⟩ ⟨.c, 6⟩) := by decide
theorem test_decode_sub : decode 0b0000111011001011 = .ok (.sub ⟨.b, 3⟩ ⟨.c, 6⟩) := by decide
theorem test_decode_and : decode 0b0001011011001011 = .ok (.and ⟨.b, 3⟩ ⟨.c, 6⟩) := by decide
theorem test_decode_or : decode 0b0001101011001011 = .ok (.or ⟨.b, 3⟩ ⟨.c, 6⟩) := by decide
theorem test_decode_xor : decode 0b0001111011001011 = .ok (.xor ⟨.b, 3⟩ ⟨.c, 6⟩) := by decide
theorem test_decode_movl : decode 0b0101010010101011 = .ok (.movl ⟨.b, 3⟩ 0xA5) := by decide
theorem test_decode_cmpl : decode 0b0110111111011000 = .ok (.cmpl ⟨.d, 0⟩ 0x7E) := by decide
theorem test_decode_addl : decode 0b0011001110101011 = .ok (.addl ⟨.b, 3⟩ 0x1D) := by decide
theorem test_decode_subl : decode 0b0010111001101011 = .ok (.subl ⟨.b, 3⟩ 0x13) := by decide
theorem test_decode_bic : decode 0b0010101010101011 = .ok (.bic ⟨.b, 3⟩ .high 5) := by decide
theorem test_decode_bis : decode 0b0011100100001011 = .ok (.bis ⟨.b, 3⟩ .low 8) := by decide
theorem test_decode_btg : decode 0b0011111001101011 = .ok (.btg ⟨.b, 3⟩ .high 3) := by decide
theorem test_decode_btt : decode 0b0011010101101011 = .ok (.btt ⟨.b, 3⟩ .low 11) := by decide
theorem test_decode_swap : decode 0b0000000000111101 = .ok (.swap ⟨.d, 5⟩) := by decide
theorem test_decode_neg : decode 0b0000000001011101 = .ok (.neg ⟨.d, 5⟩) := by decide
theorem test_decode_not : decode 0b0000000001111101 = .ok (.not ⟨.d, 5⟩) := by decide
theorem test_decode_shl : decode 0b0000000010011101 = .ok (.shl ⟨.d, 5⟩) := by decide
theorem test_decode_shr : decode 0b0000000010111101 = .ok (.shr ⟨.d, 5⟩) := by decide
theorem test_decode_shra : decode 0b0000000011011101 = .ok (.shra ⟨.d, 5⟩) := by decide
theorem test_decode_rlc : decode 0b0000000011111101 = .ok (.rlc ⟨.d, 5⟩) := by decide
theorem test_decode_rrc : decode 0b0000000100011101 = .ok (.rrc ⟨.d, 5⟩) := by decide
theorem test_decode_adc : decode 0b0000000100111101 = .ok (.adc ⟨.d, 5⟩) := by decide
theorem test_decode_sbc : decode 0b0000000101011101 = .ok (.sbc ⟨.d, 5⟩) := by decide
theorem test_decode_ldr : decode 0b0010010000001010 = .ok (.ldr 2 0x81) := by decide
theorem test_decode_mtpr : decode 0b0000001011000111 = .ok (.mtpr 6 ⟨.a, 7⟩) := by decide
theorem test_decode_mfpr : decode 0b0000001101100100 = .ok (.mfpr ⟨.a, 4⟩ 3) := by decide
theorem test_decode_push : decode 0b0000000000010101 = .ok (.push 5) := by decide
theorem test_decode_pop : decode 0b0000000000011011 = .ok (.pop 3) := by decide
theorem test_decode_sst : decode 0b0000000110000101 = .ok (.sst 5) := by decide
theorem test_decode_cst : decode 0b0000000111001001 = .ok (.cst 9) := by decide
theorem test_decode_tof : decode 0b0000000000000100 = .ok (.tof) := by decide
theorem test_decode_tdc : decode 0b0000000000000101 = .ok (.tdc) := by decide
theorem test_decode_jmp : decode 0b1000001000000011 = .ok (.jmp 0x203) := by decide
theorem test_decode_jsr : decode 0b1001001000000011 = .ok (.jsr 0x203) := by decide
theorem test_decode_jnz : decode 0b1011001000000011 = .ok (.jnz 0x203) := by decide
theorem test_decode_jz : decode 0b1010001000000011 = .ok (.jz 0x203) := by decide
theorem test_decode_jns : decode 0b1100001000000011 = .ok (.jns 0x203) := by decide
theorem test_decode_js : decode 0b1101001000000011 = .ok (.js 0x203) := by decide
theorem test_decode_jnc : decode 0b1110001000000011 = .ok (.jnc 0x203) := by decide
theorem test_decode_jc : decode 0b1111001000000011 = .ok (.jc 0x203) := by decide
theorem test_decode_ijmp : decode 0b0000000000000011 = .ok (.ijmp) := by decide
theorem test_decode_ijsr : decode 0b0000000000000111 = .ok (.ijsr) := by decide
theorem test_decode_rts : decode 0b0000000000001100 = .ok (.rts) := by decide
theorem test_decode_rtsc : decode 0b0000000000001111 = .ok (.rtsc true) := by decide
theorem test_decode_rti : decode 0b0000000000001101 = .ok (.rti) := by decide
theorem test_decode_nop : decode 0b0000000000000000 = .ok (.nop) := by decide
theorem test_decode_wait : decode 0b0000000000000001 = .ok (.wait) := by decide
theorem test_decode_stop : decode 0b0000000000001000 = .ok (.stop) := by decide
theorem test_decode_reset : decode 0b0000000000000010 = .ok (.reset) := by decide
theorem test_decode_sksp : decode 0b0000000000000110 = .ok (.sksp) := by decide

/-- R97, R98: the first and last word of every unassigned range, and reserved jump bits. -/
theorem test_unassigned_words :
    [0x0009, 0x000A, 0x000B, 0x0160, 0x017F, 0x0190, 0x01BF, 0x01D0, 0x01FF].map decode =
      List.replicate 9 (.error .unassigned) := by decide

theorem test_reserved_words :
    [0x8400, 0x8FFF, 0x9400, 0xAC00, 0xF400, 0xFFFF].map decode = List.replicate 6 (.error .reservedBits) := by decide

/-- The neighbours of the unassigned ranges are instructions. -/
theorem test_words_beside_unassigned :
    [0x0008, 0x000C, 0x015F, 0x0180, 0x018F, 0x01C0, 0x01CF, 0x0200].map decode =
      [.ok .stop, .ok .rts, .ok (.sbc ⟨.d, 7⟩), .ok (.sst 0), .ok (.sst 15), .ok (.cst 0), .ok (.cst 15),
        .ok (.mtpr 0 ⟨.a, 0⟩)] := by decide

/-- Words of spec/95: S1, S15, S29, and `LDR #3, 7F8h`. -/
theorem test_encode_examples :
    encode (.mov ⟨.a, 0⟩ ⟨.b, 3⟩) = 0x0560 ∧ encode (.bic ⟨.a, 0⟩ .high 5) = 0x2AA0 ∧
      encode (.ldr 2 1) = 0x200A ∧ encode (.ldr 3 0xFF) = 0x27FB := by decide

theorem test_decodeTableWord : decodeTableWord 16 0x1160 = some (.add ⟨.a, 0⟩ ⟨.b, 3⟩) ∧
    decodeTableWord 16 0x0009 = none := by decide

/-! ## Well-formedness: statements the assembler does not take (R103, D31, U16) -/

theorem test_wf_refuses_unaligned_segment : Asm.wf (.ldr 0 0x44) = false := by decide
theorem test_wf_refuses_wide_segment : Asm.wf (.ldr 3 0x800) = false := by decide
theorem test_wf_refuses_wide_literal : Asm.wf (.ldr 4 0x100) = false := by decide
theorem test_wf_takes : Asm.wf (.ldr 3 0x7F8) = true ∧ Asm.wf (.ldr 4 0xFF) = true ∧ Asm.wf (.core .nop) = true := by
  decide
theorem test_assemble_refuses : Asm.assemble (.ldr 2 9) = none := by decide
theorem test_assemble_ldr : Asm.assemble (.ldr 2 8) = some (.ldr 2 1) := by decide

/-! ## Running: a small state -/

/-- %a0 is data address 40h, %b3 is 4Bh. -/
def cells (a0 b3 rs : Byte) : State :=
  { State.reset with rs := rs, sr := #v[8, 9, 3, 0, 0, 0, 0, 0], mem := [(0x40, a0), (0x4B, b3)] }

/-- A field of the next state. -/
def nextOf (α : Type) (f : State → α) : Result → Option α
  | .next t => some (f t)
  | .fault _ => none
  | .refused _ => none

/-- What a step refused. -/
def refusalOf : Result → Option Refusal
  | .refused r => some r
  | .next _ => none
  | .fault _ => none

/-- %a0 and RS after. -/
def dataAfter (i : Instr) (s : State) : Option (Option Byte × Byte) :=
  nextOf (Option Byte × Byte) (fun t => (Memory.read t.mem 0x40, t.rs)) (exec i s)

abbrev a0 : Operand := ⟨.a, 0⟩
abbrev b3 : Operand := ⟨.b, 3⟩

/-! ### Data instructions: source examples (S) and derived vectors -/

/-- S1. -/
theorem test_mov_s1 : dataAfter (.mov a0 b3) (cells 0x23 0x86 0x10) = some (some 0x86, 0x04) := by decide

/-- Derived: Z set, OF cleared, C and DC kept. -/
theorem test_mov_zero : dataAfter (.mov a0 b3) (cells 0x55 0x00 0x31) = some (some 0x00, 0x23) := by decide

/-- Derived: borrow, dst not stored. -/
theorem test_cmp_borrow : dataAfter (.cmp a0 b3) (cells 0x10 0x20 0x00) = some (some 0x10, 0x05) := by decide

/-- Derived: signed overflow. -/
theorem test_cmp_overflow : dataAfter (.cmp a0 b3) (cells 0x80 0x01 0x00) = some (some 0x80, 0x30) := by decide

/-- S2. -/
theorem test_add_s2 : dataAfter (.add a0 b3) (cells 0xF9 0x98 0x00) = some (some 0x91, 0x25) := by decide

/-- Derived: Z, C, OF; DC = 0. -/
theorem test_add_wrap : dataAfter (.add a0 b3) (cells 0x80 0x80 0x00) = some (some 0x00, 0x13) := by decide

/-- S3, by the rules (C3, D10). -/
theorem test_sub_s3 : dataAfter (.sub a0 b3) (cells 0x12 0x54 0x07) = some (some 0xBE, 0x25) := by decide

/-- Derived: the OF_SUB_RULE case. -/
theorem test_sub_overflow : dataAfter (.sub a0 b3) (cells 0x7F 0xFF 0x00) = some (some 0x80, 0x15) := by decide

/-- S5. -/
theorem test_and_s5 : dataAfter (.and a0 b3) (cells 0x12 0xF0 0x17) = some (some 0x10, 0x00) := by decide

/-- Derived: IE preserved. -/
theorem test_and_keeps_ie : dataAfter (.and a0 b3) (cells 0xAA 0x55 0x3D) = some (some 0x00, 0x0A) := by decide

/-- S6. -/
theorem test_or_s6 : dataAfter (.or a0 b3) (cells 0x12 0xF0 0x37) = some (some 0xF2, 0x04) := by decide

/-- S7. -/
theorem test_xor_s7 : dataAfter (.xor a0 b3) (cells 0x12 0xF0 0x37) = some (some 0xE2, 0x04) := by decide

/-- Derived: s = d. -/
theorem test_add_same_cell : dataAfter (.add a0 a0) (cells 0x81 0x00 0x00) = some (some 0x02, 0x11) := by decide

/-- Derived: Z; OF cleared; DC, IE, C kept. -/
theorem test_movl_clr : dataAfter (.movl a0 0) (cells 0x77 0x00 0x39) = some (some 0x00, 0x2B) := by decide

/-- S8. -/
theorem test_movl_s8 : dataAfter (.movl a0 0xA5) (cells 0x23 0x00 0x10) = some (some 0xA5, 0x04) := by decide

/-- Derived: 05 - FF = 06 with borrow. -/
theorem test_cmpl_borrow : dataAfter (.cmpl a0 0xFF) (cells 0x05 0x00 0x00) = some (some 0x05, 0x21) := by decide

/-- S10. -/
theorem test_cmpl_s10 : dataAfter (.cmpl a0 0x23) (cells 0x23 0x00 0x10) = some (some 0x23, 0x02) := by decide

/-- S11. -/
theorem test_addl_s11 : dataAfter (.addl a0 0x1D) (cells 0xE3 0x00 0x10) = some (some 0x00, 0x23) := by decide

/-- Derived: largest short literal. -/
theorem test_addl_largest : dataAfter (.addl a0 0x1F) (cells 0x70 0x00 0x00) = some (some 0x8F, 0x14) := by decide

/-- S13, by the rules (C4). -/
theorem test_subl_s13 : dataAfter (.subl a0 0x1D) (cells 0xE3 0x00 0x10) = some (some 0xC6, 0x24) := by decide

/-- Derived: S, C, DC. -/
theorem test_subl_dec : dataAfter (.subl a0 1) (cells 0x00 0x00 0x00) = some (some 0xFF, 0x25) := by decide

/-- S15. -/
theorem test_bic_s15 : dataAfter (.bic a0 .high 5) (cells 0xFF 0x00 0x37) = some (some 0xAF, 0x04) := by decide

/-- S16. -/
theorem test_bis_s16 : dataAfter (.bis a0 .low 8) (cells 0x22 0x00 0x37) = some (some 0x2A, 0x00) := by decide

/-- S17, BTGH by the rules (C9). -/
theorem test_btg_high : dataAfter (.btg a0 .high 5) (cells 0x05 0x00 0x37) = some (some 0x55, 0x00) := by decide

/-- S17, BTGL as meant. -/
theorem test_btg_low : dataAfter (.btg a0 .low 5) (cells 0x05 0x00 0x37) = some (some 0x00, 0x02) := by decide

/-- S18. -/
theorem test_btt_s18 : dataAfter (.btt a0 .low 3) (cells 0x01 0x00 0x37) = some (some 0x01, 0x00) := by decide

/-- Derived: S from bit 7 of the AND; C cleared. -/
theorem test_btt_high : dataAfter (.btt a0 .high 8) (cells 0x80 0x00 0x01) = some (some 0x80, 0x04) := by decide

/-- S19. -/
theorem test_swap_s19 : dataAfter (.swap a0) (cells 0x19 0x00 0x37) = some (some 0x91, 0x04) := by decide

/-- S20. -/
theorem test_neg_s20 : dataAfter (.neg a0) (cells 0x03 0x00 0x37) = some (some 0xFD, 0x25) := by decide

/-- Derived: S, C, OF. -/
theorem test_neg_80 : dataAfter (.neg a0) (cells 0x80 0x00 0x00) = some (some 0x80, 0x15) := by decide

/-- S21, by the rules (C8). -/
theorem test_not_s21 : dataAfter (.not a0) (cells 0xF3 0x00 0x37) = some (some 0x0C, 0x21) := by decide

/-- S22. -/
theorem test_shl_s22 : dataAfter (.shl a0) (cells 0x5A 0x00 0x37) = some (some 0xB4, 0x14) := by decide

/-- Derived: OF = 0. -/
theorem test_shl_c0 : dataAfter (.shl a0) (cells 0xC0 0x00 0x00) = some (some 0x80, 0x05) := by decide

/-- S23. -/
theorem test_shr_s23 : dataAfter (.shr a0) (cells 0x5B 0x00 0x37) = some (some 0x2D, 0x01) := by decide

/-- S24, by the rules (C7). -/
theorem test_shra_s24 : dataAfter (.shra a0) (cells 0xBC 0x00 0x37) = some (some 0xDE, 0x04) := by decide

/-- S25. -/
theorem test_rlc_s25 : dataAfter (.rlc a0) (cells 0x5A 0x00 0x37) = some (some 0xB5, 0x14) := by decide

/-- S26, RRC by the rules (C6). -/
theorem test_rrc_s26 : dataAfter (.rrc a0) (cells 0x5A 0x00 0x37) = some (some 0xAD, 0x04) := by decide

/-- Derived: old C enters bit 7. -/
theorem test_rrc_00 : dataAfter (.rrc a0) (cells 0x00 0x00 0x01) = some (some 0x80, 0x04) := by decide

/-- S27. -/
theorem test_adc_s27 : dataAfter (.adc a0) (cells 0x5A 0x00 0x37) = some (some 0x5B, 0x00) := by decide

/-- Derived: S, OF, DC. -/
theorem test_adc_7f : dataAfter (.adc a0) (cells 0x7F 0x00 0x01) = some (some 0x80, 0x34) := by decide

/-- S28, by the rules (C5). -/
theorem test_sbc_s28 : dataAfter (.sbc a0) (cells 0x5A 0x00 0x37) = some (some 0x59, 0x00) := by decide

/-- Derived: S, C, DC. -/
theorem test_sbc_00 : dataAfter (.sbc a0) (cells 0x00 0x00 0x01) = some (some 0xFF, 0x25) := by decide

/-- S3 as the source prints it, under the other value of OF_SUB_RULE (C3, D10). -/
theorem test_sub_s3_addStyle : dataAfter (.sub a0 b3)
    { cells 0x12 0x54 0x07 with platform := { Platform.atReset with ofSubRule := .addStyle } } =
      some (some 0xBE, 0x35) := by decide

/-! ### Service and status registers, control transfer, special -/

/-- S29, as the word 200Ah. -/
theorem test_ldr_s29 : nextOf Byte (fun t => t.sr.get 2) (exec (.ldr 2 1) (cells 0 0 0)) = some 1 := by decide

/-- S31. -/
theorem test_mtpr_s31 : nextOf (Byte × Byte) (fun t => (t.sr.get 2, t.rs)) (exec (.mtpr 2 a0) (cells 0x5A 0 0x37)) =
    some (0x5A, 0x37) := by decide

/-- Derived: `MTPR #0,%a0`: the operand address is formed with the old SR0. -/
theorem test_mtpr_old_segment :
    nextOf Byte (fun t => t.sr.get 0) (exec (.mtpr 0 a0) (cells 0x09 0 0)) = some 0x09 := by decide

/-- S30, and RS unchanged. -/
theorem test_mfpr_s30 : dataAfter (.mfpr a0 2) (cells 0x5A 0 0x3F) = some (some 3, 0x3F) := by decide

/-- Derived: `PUSH #0` with DSP = 2, and at the limit. -/
theorem test_push : nextOf (Byte × Nat) (fun t => (t.dstack.get 2, t.dsp.val))
    (exec (.push 0) { cells 0 0 0 with dsp := 2 }) = some (8, 3) := by decide
theorem test_push_over : nextOf Bool (fun t => t.stackErr) (exec (.push 0) { cells 0 0 0 with dsp := 15 }) =
    some true := by decide

/-- Derived: `POP #1` with dstack[2] = 08, DSP = 3, and at DSP = 0. -/
theorem test_pop : nextOf (Byte × Nat) (fun t => (t.sr.get 1, t.dsp.val))
    (exec (.pop 1) { cells 0 0 0 with dsp := 3, dstack := (Vector.replicate 16 0).set 2 8 }) = some (8, 2) := by decide
theorem test_pop_under : nextOf Bool (fun t => t.stackErr) (exec (.pop 1) (cells 0 0 0)) = some true := by decide

/-- S32 and derived `SST 8`. -/
theorem test_sst : nextOf Byte (fun t => t.rs) (exec (.sst 5) (cells 0 0 0)) = some 5 ∧
    nextOf Byte (fun t => t.rs) (exec (.sst 8) (cells 0 0 0x30)) = some 0x38 := by decide

/-- S33 and derived `CST 15`. -/
theorem test_cst : nextOf Byte (fun t => t.rs) (exec (.cst 9) (cells 0 0 0x1F)) = some 0x16 ∧
    nextOf Byte (fun t => t.rs) (exec (.cst 15) (cells 0 0 0x3F)) = some 0x30 := by decide

/-- Derived: TOF and TDC. -/
theorem test_tof : nextOf Byte (fun t => t.rs) (exec .tof (cells 0 0 0x10)) = some 0x12 ∧
    nextOf Byte (fun t => t.rs) (exec .tof (cells 0 0 0x02)) = some 0x00 := by decide
theorem test_tdc : nextOf Byte (fun t => t.rs) (exec .tdc (cells 0 0 0x20)) = some 0x22 ∧
    nextOf Byte (fun t => t.rs) (exec .tdc (cells 0 0 0x03)) = some 0x01 := by decide

/-- The pc after an instruction at `pc` with RS `rs`. -/
def pcAfter (i : Instr) (pc : PAddr) (rs : Byte) : Option PAddr :=
  nextOf PAddr (fun t => t.pc) (exec i { cells 0 0 rs with pc := pc })

/-- Derived: the jump table of spec/95. -/
theorem test_jmp : pcAfter (.jmp 0x3FF) 0 0 = some 0x3FF := by decide
theorem test_jz : pcAfter (.jz 0x40) 5 0x02 = some 0x40 ∧ pcAfter (.jz 0x40) 5 0x3D = some 6 := by decide
theorem test_jnz : pcAfter (.jnz 0x40) 5 0x00 = some 0x40 ∧ pcAfter (.jnz 0x40) 5 0x02 = some 6 := by decide
theorem test_jns : pcAfter (.jns 0x40) 5 0x04 = some 6 ∧ pcAfter (.jns 0x40) 5 0x3B = some 0x40 := by decide
theorem test_js : pcAfter (.js 0x40) 5 0x04 = some 0x40 ∧ pcAfter (.js 0x40) 5 0x3B = some 6 := by decide
theorem test_jnc : pcAfter (.jnc 0x40) 5 0x01 = some 6 ∧ pcAfter (.jnc 0x40) 5 0x3E = some 0x40 := by decide
theorem test_jc : pcAfter (.jc 0x40) 5 0x01 = some 0x40 ∧ pcAfter (.jc 0x40) 5 0x3E = some 6 := by decide

/-- Derived: `JSR 200h` at 3FFh with ISP = 6: the return address wraps to 000 (D8). -/
theorem test_jsr : nextOf (PAddr × PAddr × Nat) (fun t => (t.pc, t.istack.get 6, t.isp.val))
    (exec (.jsr 0x200) { cells 0 0 0 with pc := 0x3FF, isp := 6, istack := Vector.replicate 8 0x155 }) =
      some (0x200, 0, 7) := by decide
theorem test_jsr_over : nextOf Bool (fun t => t.stackErr) (exec (.jsr 0x200) { cells 0 0 0 with isp := 7 }) =
    some true := by decide

/-- Derived: RTS, RTSC, RTI. -/
theorem test_rts : nextOf (PAddr × Nat) (fun t => (t.pc, t.isp.val))
    (exec .rts { cells 0 0 0 with isp := 1, istack := (Vector.replicate 8 0).set 0 0x11 }) = some (0x11, 0) := by decide
theorem test_rtsc : nextOf (PAddr × Nat × Byte) (fun t => (t.pc, t.isp.val, t.rs))
    (exec (.rtsc true) { cells 0 0 0x02 with isp := 2, istack := (Vector.replicate 8 0).set 1 0x123 }) =
      some (0x123, 1, 0x03) := by decide
theorem test_rti : nextOf (PAddr × Byte × Nat × Nat) (fun t => (t.pc, t.rs, t.isp.val, t.dsp.val))
    (exec .rti { cells 0 0 0xFF with isp := 1, istack := (Vector.replicate 8 0).set 0 0x55, dsp := 1, dstack := (Vector.replicate 16 0).set 0 0x0A }) =
      some (0x55, 0x0A, 0, 0) := by decide

/-- IJMP and IJSR take IR1, whatever its value is. -/
theorem test_ijmp (s : State) : nextOf PAddr (fun t => t.pc) (exec .ijmp s) = some s.ir1 := by rfl
theorem test_ijsr : nextOf (PAddr × Nat) (fun t => (t.istack.get 1, t.isp.val))
    (exec .ijsr { cells 0 0 0 with pc := 0x40, isp := 1 }) = some (0x41, 2) := by decide

/-- Derived: NOP, WAIT, STOP, RESET, SKSP. -/
theorem test_nop : pcAfter .nop 0x20 0 = some 0x21 ∧ pcAfter .nop 0x3FF 0 = some 0 := by decide
theorem test_wait : nextOf (PAddr × Byte × RunState) (fun t => (t.pc, t.rs, t.run))
    (exec .wait { cells 0 0 0 with pc := 0x30 }) = some (0x31, 8, .waiting) := by decide
theorem test_stop : nextOf (PAddr × Byte × RunState) (fun t => (t.pc, t.rs, t.run))
    (exec .stop { cells 0 0 2 with pc := 0x30 }) = some (0x31, 0x0A, .stopped) := by decide
theorem test_reset : nextOf (Nat × Nat × Bool × Byte) (fun t => (t.isp.val, t.dsp.val, t.stackErr, t.rs))
    (exec .reset { cells 0 0 0x3F with isp := 7, dsp := 3, stackErr := true }) = some (0, 0, false, 0x3F) := by decide
theorem test_sksp : nextOf (PAddr × Nat) (fun t => (t.pc, t.isp.val)) (exec .sksp { cells 0 0 0 with isp := 2 }) =
    some (1, 1) := by decide

/-! ### Steps and interrupts -/

/-- The word 1160h placed where the next step fetches it runs as ADD (S2). -/
theorem test_withFetchWord : nextOf (Option Byte × Byte × PAddr) (fun t => (Memory.read t.mem 0x40, t.rs, t.pc))
    (step ((cells 0xF9 0x98 0).withFetchWord 16 0x1160)) = some (some 0x91, 0x25, 1) := by decide

theorem test_withFetchWord_reset : nextOf PAddr (fun t => t.pc) (step (State.reset.withFetchWord 16 0)) = some 1 := by
  decide

/-- The entry example of spec/95 (R244): Vector = 100h, pc = 123h, RS = 2Dh, ISP = 2, DSP = 5. -/
def entryState : State :=
  { cells 0 0 0x2D with
    pc := 0x123, isp := 2, dsp := 5
    platform := { Platform.atReset with vectors := [(.external 0, 0x100), (.stackError, 0x200)] }
    env := [⟨[0], some (.external 0)⟩] }

theorem test_interrupt_entry :
    nextOf (PAddr × PAddr × Nat × Nat × Byte) (fun t => (t.pc, t.istack.get 2, t.isp.val, t.dsp.val, t.rs))
      (step entryState) = some (0x100, 0x123, 3, 6, 0x25) := by decide

/-- With IE = 0 there is no entry: the step fetches (and no word is loaded). -/
theorem test_no_entry_masked : State.accepted { entryState with rs := 0x25 } = none := by decide

/-- R241: a stack-error request enters at its own vector. -/
theorem test_stack_error_entry : nextOf PAddr (fun t => t.pc)
    (step { entryState with stackErr := true, env := [⟨[], some .stackError⟩] }) = some 0x200 := by decide

/-- R259: a waiting core enters a pending source that the environment does not name, and the latched stack error with
no input at all. -/
def waitingPending : State := { entryState with run := .waiting, env := [⟨[0], none⟩] }
def stoppedStackErr : State := { entryState with run := .stopped, stackErr := true, env := [] }

theorem waitingPending_accepted : waitingPending.accepted = some (.external 0) := State.pickSource_singleton _ _
theorem stoppedStackErr_accepted : stoppedStackErr.accepted = some .stackError := State.pickSource_singleton _ _

theorem test_waiting_enters : nextOf (PAddr × RunState) (fun t => (t.pc, t.run)) (step waitingPending) =
    some (0x100, .running) := by
  simp only [step, waitingPending_accepted]; decide
theorem test_stopped_enters : nextOf (PAddr × RunState) (fun t => (t.pc, t.run)) (step stoppedStackErr) =
    some (0x200, .running) := by
  simp only [step, stoppedStackErr_accepted]; decide

/-- R288: entry records the handler's address, once. -/
theorem test_handlers : nextOf (List PAddr) (fun t => t.handlers) (step entryState) = some [0x100] ∧
    nextOf (List PAddr) (fun t => t.handlers) (step { entryState with handlers := [0x100] }) = some [0x100] ∧
    State.atHandlerStart { cells 0 0 0 with handlers := [0] } = true := by decide

/-- IMG_ORDER (D2): the same program word from both byte orders. -/
theorem test_imageWords : imageWords true [0x60, 0x11] = [0x1160] ∧ imageWords false [0x11, 0x60] = [0x1160] := by
  decide

/-! ## Witnesses: states and operands that meet the hypotheses of the statements -/

/-- Data address 40h (%a0) is a device's, 4Bh (%b3) is absent, the rest is RAM. -/
def mapped : State :=
  { cells 1 2 0 with
    mem := []
    platform := { Platform.atReset with dataMap := [⟨0x40, 1, .device⟩, ⟨0x4B, 1, .absent⟩] } }

/-- The words at 0. -/
def loaded (w : Word) : State := { cells 1 2 0 with pmem := [(0, w)] }

theorem witness_EncodeOfDecode : decode 0x0560 = .ok (.mov a0 b3) := by decide

theorem witness_DecodeFollowsOpcodeMap :
    (0x0560 : Word) &&& (Instr.mov b3 a0).row.2 = (Instr.mov b3 a0).row.1 ∧
      (decode 0x0560 = .ok (.mov a0 b3) ∧ (Instr.mov a0 b3).row = (Instr.mov b3 a0).row) := by decide

theorem witness_UnassignedWordsAreRefused :
    ((loaded 0x0009).accepted = none ∧ (loaded 0x0009).run = .running ∧
      (loaded 0x0009).pc.toNat < (loaded 0x0009).platform.pmemWords ∧
      Memory.read (loaded 0x0009).pmem (loaded 0x0009).pc.toNat = some 0x0009 ∧
      decode 0x0009 = .error .unassigned) ∧
    ((loaded 0x8400).accepted = none ∧ (loaded 0x8400).run = .running ∧
      (loaded 0x8400).pc.toNat < (loaded 0x8400).platform.pmemWords ∧
      Memory.read (loaded 0x8400).pmem (loaded 0x8400).pc.toNat = some 0x8400 ∧
      decode 0x8400 = .error .reservedBits) ∧
    (State.accepted { cells 0 0 0 with pc := 0x3FF } = none ∧ Memory.read (cells 0 0 0).pmem 0x3FF = none) ∧
    (State.accepted { cells 0 0 0 with platform := { Platform.atReset with pmemWords := 0x3FF }, pc := 0x3FF } = none ∧
      0x3FF ≤ (0x3FF : PAddr).toNat) := by decide

theorem witness_AssemblerForms : (3 : SvcReg).val < 4 ∧ 0x7FF % 8 ≠ 0 := by decide

/-- A step that completes and one that is refused (%b3 absent, address 3FFh). -/
theorem witness_StepRunsTheDecodedInstruction :
    ((loaded 0x0560).accepted = none ∧ (loaded 0x0560).run = .running ∧
      (loaded 0x0560).pc.toNat < (loaded 0x0560).platform.pmemWords ∧
      Memory.read (loaded 0x0560).pmem (loaded 0x0560).pc.toNat = some 0x0560 ∧
      decode 0x0560 = .ok (.mov a0 b3)) ∧
    (State.accepted { mapped with pc := 0x3FF, pmem := [(0x3FF, 0x0560)] } = none ∧
      Memory.read [(0x3FF, (0x0560 : Word))] 0x3FF = some 0x0560 ∧
      refusalOf (step { mapped with pc := 0x3FF, pmem := [(0x3FF, 0x0560)] }) = some .undefinedDataAddress) := by
  decide

theorem witness_AcceptedIffPendingAndEnabled :
    (entryState.accepted = some (.external 0) ∧ entryState.run = .running ∧
      entryState.env = [⟨[0], some (.external 0)⟩]) ∧
    State.accepted { entryState with env := [⟨[0], none⟩] } = none ∧
    State.accepted { entryState with env := [⟨[1], some (.external 0)⟩] } = none ∧
    State.accepted { entryState with rs := 0, platform := { entryState.platform with ungated := [.external 0] } } =
      some (.external 0) ∧
    State.accepted { entryState with stackErr := true, env := [⟨[], some .stackError⟩] } = some .stackError ∧
    State.accepted { entryState with env := [⟨[], some .stackError⟩] } = none := by decide

theorem entryState_canEnter : entryState.CanEnter (.external 0) := ⟨by decide, by decide⟩

/-- Not running, with a source that can enter and with none. -/
theorem witness_AcceptedIffPendingAndEnabled_waiting :
    (waitingPending.run ≠ .running ∧ waitingPending.accepted = some (.external 0)) ∧
    (stoppedStackErr.run ≠ .running ∧ stoppedStackErr.accepted = some .stackError) ∧
    State.accepted { cells 0 0 0 with run := .waiting } = none :=
  ⟨⟨by decide, waitingPending_accepted⟩, ⟨by decide, stoppedStackErr_accepted⟩, rfl⟩

/-- Room on both stacks up to the last cell, and either stack full. -/
theorem witness_InterruptEntry :
    (State.accepted { entryState with isp := 6, dsp := 14 } = some (.external 0) ∧ (6 : Fin 8) ≠ 7 ∧
      (14 : Fin 16) ≠ 15) ∧
    State.accepted { entryState with isp := 7, dsp := 0 } = some (.external 0) ∧
    State.accepted { entryState with isp := 0, dsp := 15 } = some (.external 0) := by decide

/-- The second vector of a list, after one of another source. -/
theorem witness_InterruptEntry_vector :
    [(IntSource.external 0, (0x100 : PAddr)), (.stackError, 0x3FF)] = [(.external 0, 0x100)] ++ (.stackError, 0x3FF) :: [] ∧
    ∀ v ∈ [(IntSource.external 0, (0x100 : PAddr))], v.1 ≠ .stackError := by decide

theorem witness_EntryAtAFullStack :
    State.accepted { entryState with isp := 7, stackErr := true, env := [⟨[], some .stackError⟩] } =
      some .stackError ∧
    State.accepted { entryState with dsp := 15, stackErr := true, env := [⟨[], some .stackError⟩] } =
      some .stackError ∧
    State.accepted { entryState with isp := 7 } = some (.external 0) ∧
    State.accepted { entryState with dsp := 15 } = some (.external 0) := by decide

theorem witness_EntryThenRtiResumes :
    State.accepted { entryState with isp := 0, dsp := 14 } = some (.external 0) ∧ (0 : Fin 8) ≠ 7 ∧
      (14 : Fin 16) ≠ 15 := by decide

/-- The same with a handler of two words, NOP and RTI, and the stacks up to their last cells. -/
def handlerState : State :=
  { entryState with isp := 6, dsp := 14, pmem := [(0x100, 0x0000), (0x101, 0x000D)] }

theorem witness_EntryThenRtiResumes_run : ∃ t u, handlerState.accepted = some (.external 0) ∧
    step handlerState = .next t ∧
    StepsWhile (fun x => handlerState.isp.val < x.isp.val ∧ handlerState.dsp.val < x.dsp.val) 1 t u ∧
    u.AboutToRun .rti ∧ u.isp.val = handlerState.isp.val + 1 ∧ u.dsp.val = handlerState.dsp.val + 1 :=
  ⟨_, _, by decide, rfl, ⟨by decide, _, rfl, rfl⟩, ⟨rfl, rfl, rfl⟩, rfl, rfl⟩

theorem witness_WaitingCoreOnlyEnters :
    (∃ t, step { cells 0 0 0 with run := .waiting } = .next t) ∧
    (∃ t, step { entryState with run := .stopped } = .next t) ∧
    State.accepted { entryState with run := .stopped } = some (.external 0) ∧
    (waitingPending.run ≠ .running ∧ waitingPending.CanEnter (.external 0) ∧ waitingPending.isp ≠ 7 ∧
      waitingPending.dsp ≠ 15) :=
  ⟨⟨_, rfl⟩, ⟨_, rfl⟩, by decide, by decide, ⟨by decide, by decide⟩, by decide, by decide⟩

/-- The invariant of a state that stores to RAM and to a device, whose SR0 implements four bits. -/
def invState : State :=
  { mapped with
    pmem := [(0, 0x1160)], mem := [(0x41, 5)], sr := #v[8, 9, 3, 0, 0, 0, 0, 0]
    platform := { Platform.atReset with
      dataMap := [⟨0x40, 1, .device⟩], srMask := #v[0x0F, 0xFF, 0xFF, 0xFF, 0xFF, 0xFF, 0xFF, 0xFF] } }

theorem invState_inv : invState.Inv :=
  ⟨by decide, by decide, by decide, by decide, by decide, by decide⟩

theorem witness_StepKeepsInv : invState.Inv ∧ ∃ t, step invState = .next t := ⟨invState_inv, ⟨_, rfl⟩⟩

theorem witness_RunKeepsInv : invState.Inv ∧ ∃ t, Host.Core.run Sys2Proof.core 1 invState = .next t :=
  ⟨invState_inv, ⟨_, rfl⟩⟩

theorem witness_NoStepWritesProgramMemory : ∃ t, step (loaded 0x0560) = .next t := ⟨_, rfl⟩

/-- SST changes IE; RTI changes RS[7:6]. -/
theorem witness_OnlyListedInstructionsChangeIe :
    nextOf Bool (fun t => t.rs.getLsbD 3) (exec (.sst 8) (cells 0 0 0)) = some true ∧
    (cells 0 0 0).rs.getLsbD 3 = false ∧
    nextOf Bool (fun t => t.rs.getLsbD 7) (exec .rti { cells 0 0 0 with isp := 1, dsp := 1, dstack := (Vector.replicate 16 0).set 0 0x80 }) = some true ∧
    (cells 0 0 0).rs.getLsbD 7 = false := by decide

theorem witness_OnlyLdrMtprPopWriteServiceRegisters :
    (cells 7 0 0).sr.get 7 = 0 ∧
    nextOf Byte (fun t => t.sr.get 7) (exec (.ldr 7 0xFF) (cells 7 0 0)) = some 0xFF ∧
    nextOf Byte (fun t => t.sr.get 7) (exec (.mtpr 7 a0) (cells 7 0 0)) = some 7 ∧
    nextOf Byte (fun t => t.sr.get 7) (exec (.pop 7) { cells 7 0 0 with dsp := 1, dstack := (Vector.replicate 16 0).set 0 5 }) = some 5 := by decide

theorem witness_StackErrorIsLatchedUntilReset :
    (∃ t, exec .rts (cells 0 0 0) = .next t) ∧ stackErrorCause (cells 0 0 0) .rts = true ∧
    (∃ t, exec .reset { cells 0 0 0 with stackErr := true } = .next t) :=
  ⟨⟨_, rfl⟩, by decide, ⟨_, rfl⟩⟩

theorem witness_StackPointersMoveByOne :
    (∃ t, exec .rti { cells 0 0 0 with isp := 1, dsp := 1 } = .next t) ∧
    stackErrorCause { cells 0 0 0 with isp := 1, dsp := 1 } .rti = false ∧ Instr.rti ≠ .reset :=
  ⟨⟨_, rfl⟩, by decide, by decide⟩

/-- WAIT changes the run state. -/
theorem witness_InstructionsLeaveTheWorldAlone :
    nextOf RunState (fun t => t.run) (exec .wait (cells 0 0 0)) = some .waiting ∧
    (cells 0 0 0).run = .running := by decide

theorem witness_OnlyDataWritersTouchMemory :
    ((∃ t, exec (.cmp a0 b3) (cells 1 2 0) = .next t) ∧ writesNoData (.cmp a0 b3) = true) ∧
    ((∃ t, exec (.ldr 0 1) (cells 1 2 0) = .next t) ∧ dataOperands (.ldr 0 1) = [] ∧ writesNoData (.ldr 0 1) = true) :=
  ⟨⟨⟨_, rfl⟩, by decide⟩, ⟨_, rfl⟩, by decide, by decide⟩

theorem witness_ExecutesUnlessAnOperandIsAbsent :
    (∀ p ∈ dataOperands (.mov a0 b3), (cells 1 2 0).kind ((cells 1 2 0).ea p.1 p.2) ≠ .absent) ∧
    (∃ p ∈ dataOperands (.mov a0 b3), mapped.kind (mapped.ea p.1 p.2) = .absent) ∧
    dataOperands (.ldr 0 1) = [] := by decide

/-- The address wraps below DADDR_BITS = 8 (segment register FFh, index 7). -/
theorem witness_EffectiveAddress :
    State.indirectLoaded { mapped with sr := Vector.replicate 8 0xFF } = false ∧
    State.ea { mapped with sr := Vector.replicate 8 0xFF, platform := { Platform.atReset with daddrBits := 8 } } .dst
      ⟨.d, 7⟩ = 0xFF := by decide

/-- R22: the segments' registers are SR0 to SR3 in order; the operand fields are the numbers R52 gives. -/
theorem test_ea_segments :
    [(⟨.a, 7⟩ : Operand), ⟨.b, 0⟩, ⟨.c, 6⟩, ⟨.d, 5⟩].map
      (State.ea { cells 0 0 0 with sr := #v[1, 2, 3, 4, 5, 6, 7, 8] } .dst) = [0x0F, 0x10, 0x1E, 0x25] ∧
    [(⟨.a, 7⟩ : Operand), ⟨.b, 0⟩, ⟨.c, 6⟩, ⟨.d, 5⟩].map Operand.bits = [0b00111, 0b01000, 0b10110, 0b11101] := by
  decide

/-- The number of the segment register from the operand's field: the lowest and the highest. -/
theorem witness_EffectiveAddress_register :
    (0 : SvcReg).val = (Operand.bits ⟨.a, 7⟩).toNat / 8 ∧ (3 : SvcReg).val = (Operand.bits ⟨.d, 7⟩).toNat / 8 ∧
    (cells 0 0 0).indirectLoaded = false := by decide

/-- The first and the last address of a region, one of two regions over the same address, an uncovered address. -/
theorem witness_EffectiveAddress_map :
    mapped.platform.dataMap = [⟨0x40, 1, .device⟩] ++ ⟨0x4B, 1, .absent⟩ :: [] ∧
    (∀ q ∈ [(⟨0x40, 1, .device⟩ : DataRegion)], ¬(q.base ≤ 0x4B ∧ 0x4B < q.base + q.size)) ∧ 0x4B < 0x4B + 1 ∧
    (∀ q ∈ mapped.platform.dataMap, ¬(q.base ≤ 0x4C ∧ 0x4C < q.base + q.size)) ∧
    State.kind { mapped with platform := { Platform.atReset with dataMap := [⟨0x40, 8, .device⟩, ⟨0x47, 1, .ram⟩] } } 0x47 =
      .device := by decide

theorem witness_RamReadsTheLastWrite : (cells 0 0 0).kind 0x40 = .ram ∧ mapped.kind 0x41 = .ram ∧ 0x41 ≠ 0x40 := by
  decide

/-- Two registers of a device, each of them as both operands, and a byte of RAM. -/
theorem witness_OperandPairReads :
    State.kind { mapped with platform := { Platform.atReset with dataMap := [⟨0x40, 8, .device⟩] } } 0x40 = .device ∧
    State.kind { mapped with platform := { Platform.atReset with dataMap := [⟨0x40, 8, .device⟩] } } 0x47 = .device ∧
    State.kind { mapped with platform := { Platform.atReset with dataMap := [⟨0x40, 8, .device⟩] } } 0x48 = .ram := by
  decide

theorem witness_PopGivesWhatPushSaved :
    State.dsp { cells 0 0 0 with dsp := 14 } ≠ 15 ∧ State.isp { cells 0 0 0 with isp := 6 } ≠ 7 ∧
      (7 : SvcReg) ≠ 0 := by decide

/-- PUSH #0, PUSH #1, POP #2, then the POP that matches the first push. -/
def nestedPush : State :=
  { cells 0 0 0 with dsp := 13, pmem := [(0, 0x0010), (1, 0x0011), (2, 0x001A), (3, 0x001B)] }

theorem witness_PopGivesWhatPushSaved_push : ∃ t u, nestedPush.AboutToRun (.push 0) ∧ nestedPush.dsp ≠ 15 ∧
    step nestedPush = .next t ∧ StepsWhile (fun x => nestedPush.dsp.val < x.dsp.val) 2 t u ∧
    u.AboutToRun (.pop 3) ∧ u.dsp.val = nestedPush.dsp.val + 1 :=
  ⟨_, _, ⟨rfl, rfl, rfl⟩, by decide, rfl, ⟨by decide, _, rfl, by decide, _, rfl, rfl⟩, ⟨rfl, rfl, rfl⟩, rfl⟩

/-- JSR 002h, JSR 004h, RTS, then the RTSC 1 that matches the first call. -/
def nestedCall : State :=
  { cells 0 0 0 with isp := 5, pmem := [(0, 0x9002), (2, 0x9004), (3, 0x000F), (4, 0x000C)] }

theorem witness_PopGivesWhatPushSaved_call : ∃ t u, nestedCall.AboutToRun (.jsr 2) ∧ nestedCall.isp ≠ 7 ∧
    step nestedCall = .next t ∧ StepsWhile (fun x => nestedCall.isp.val < x.isp.val) 2 t u ∧
    u.AboutToRun (.rtsc true) ∧ u.isp.val = nestedCall.isp.val + 1 :=
  ⟨_, _, ⟨rfl, rfl, rfl⟩, by decide, rfl, ⟨by decide, _, rfl, by decide, _, rfl, rfl⟩, ⟨rfl, rfl, rfl⟩, rfl⟩

/-- IJSR at the word after the one IR1 names, which holds RTS. -/
def callThroughIr1 : State :=
  { cells 0 0 0 with
    pc := State.ir1 (cells 0 0 0) + 1
    pmem := [((State.ir1 (cells 0 0 0) + 1).toNat, 0x0007), ((State.ir1 (cells 0 0 0)).toNat, 0x000C)] }

/-- The fetch of a loaded word of a 1024-word program memory. -/
theorem fetchInstr_of_read {s : State} {w : Word} {i : Instr} (hp : s.platform.pmemWords = 1024)
    (hr : Memory.read s.pmem s.pc.toNat = some w) (hd : decode w = .ok i) : s.fetchInstr = .next i := by
  have h : ¬ s.platform.pmemWords ≤ s.pc.toNat := by have := s.pc.isLt; omega
  simp only [State.fetchInstr, if_neg h, hr, hd]

theorem witness_PopGivesWhatPushSaved_ijsr : ∃ t u, callThroughIr1.AboutToRun .ijsr ∧ callThroughIr1.isp ≠ 7 ∧
    step callThroughIr1 = .next t ∧ StepsWhile (fun x => callThroughIr1.isp.val < x.isp.val) 0 t u ∧
    u.AboutToRun .rts ∧ u.isp.val = callThroughIr1.isp.val + 1 := by
  have hne (a : PAddr) : (a + 1).toNat ≠ a.toNat := fun h => by
    rw [BitVec.toNat_add] at h
    have := a.isLt
    simp at h
    omega
  have h1 : callThroughIr1.AboutToRun .ijsr :=
    ⟨rfl, rfl, fetchInstr_of_read rfl (by simp [callThroughIr1, Memory.read]) (by decide : decode 0x0007 = _)⟩
  refine ⟨_, _, h1, by decide, step_of_fetch h1.1 h1.2.1 h1.2.2, rfl, ⟨rfl, rfl, ?_⟩, rfl⟩
  refine fetchInstr_of_read rfl (w := 0x000C) ?_ (by decide)
  show Memory.read [((State.ir1 (cells 0 0 0) + 1).toNat, (0x0007 : Word)), ((State.ir1 (cells 0 0 0)).toNat, 0x000C)]
    (State.ir1 (cells 0 0 0)).toNat = _
  simp only [Memory.read, if_neg (hne _), if_pos]

/-- A JMP to itself with IE = 0, with a source pending that IE gates, a stack-error request and input left. -/
def endedAtJmp : State := { loaded 0x8000 with stackErr := true, env := [⟨[0], some (.external 0)⟩, ⟨[0], none⟩] }

/-- That; WAIT and STOP with boundaries that list no source; and the JMP with a source that IE does not gate. -/
theorem witness_EndedRunStaysEnded :
    (endedAtJmp.ended ∧ endedAtJmp.accepted = none ∧ endedAtJmp.platform.ungated = []) ∧
    (State.ended { cells 0 0 0 with run := .waiting, env := [⟨[], none⟩] } ∧
      State.accepted { cells 0 0 0 with run := .waiting, env := [⟨[], none⟩] } = none) ∧
    State.ended { cells 0 0 0 with run := .stopped } ∧
    (State.ended { endedAtJmp with platform := { Platform.atReset with ungated := [.external 0] } } ∧
      State.accepted { endedAtJmp with platform := { Platform.atReset with ungated := [.external 0] } } =
        some (.external 0)) :=
  ⟨⟨.inl ⟨rfl, rfl, rfl⟩, by decide, rfl⟩, ⟨.inr ⟨by decide, rfl, by decide⟩, rfl⟩, .inr ⟨by decide, rfl, by decide⟩,
    .inl ⟨rfl, rfl, rfl⟩, by decide⟩

/-- A source pending at a later boundary: the wait is not the end of the run. -/
theorem test_ended_not_yet : ¬ State.ended { cells 0 0 0 with run := .waiting, env := [⟨[], none⟩, ⟨[0], none⟩] } := by
  rintro (⟨h, -⟩ | ⟨-, -, h⟩)
  · exact absurd h (by decide)
  · exact absurd (h ⟨[0], none⟩ (by simp)) (by decide)

/-- Both cells RAM; both a device's. The two-operand statements' hypotheses. -/
def bothPresent (s : State) : Prop := s.kind (s.ea .src b3) ≠ .absent ∧ s.kind (s.ea .dst a0) ≠ .absent

def twoDevices : State :=
  { cells 1 2 0 with platform := { Platform.atReset with dataMap := [⟨0x40, 0x10, .device⟩] } }

theorem bothPresent_ram : bothPresent (cells 1 2 0) := by unfold bothPresent; decide
theorem bothPresent_device : bothPresent twoDevices := by unfold bothPresent; decide

theorem witness_MovResult : bothPresent (cells 1 2 0) ∧ bothPresent twoDevices := ⟨bothPresent_ram, bothPresent_device⟩

theorem witness_CmpResult : bothPresent (cells 1 2 0) ∧ bothPresent twoDevices := ⟨bothPresent_ram, bothPresent_device⟩

theorem witness_AddResult : bothPresent (cells 1 2 0) ∧ bothPresent twoDevices := ⟨bothPresent_ram, bothPresent_device⟩

theorem witness_SubResult : bothPresent (cells 1 2 0) ∧ bothPresent twoDevices := ⟨bothPresent_ram, bothPresent_device⟩

theorem witness_AndOrXorResult : bothPresent (cells 1 2 0) ∧ bothPresent twoDevices := ⟨bothPresent_ram, bothPresent_device⟩

/-- The one-operand statements' hypothesis: %a0 in RAM, and a device's. -/
theorem dst_present : (cells 1 2 0).kind ((cells 1 2 0).ea .dst a0) = .ram ∧ mapped.kind (mapped.ea .dst a0) = .device := by
  decide

theorem witness_MovlResult : (cells 1 2 0).kind ((cells 1 2 0).ea .dst a0) ≠ .absent ∧
    mapped.kind (mapped.ea .dst a0) ≠ .absent := by decide

theorem witness_CmplBttResults : (cells 1 2 0).kind ((cells 1 2 0).ea .dst a0) ≠ .absent ∧
    mapped.kind (mapped.ea .dst a0) ≠ .absent := by decide

theorem witness_AddlResult : (cells 1 2 0).kind ((cells 1 2 0).ea .dst a0) ≠ .absent ∧
    mapped.kind (mapped.ea .dst a0) ≠ .absent := by decide

theorem witness_SublResult : (cells 1 2 0).kind ((cells 1 2 0).ea .dst a0) ≠ .absent ∧
    mapped.kind (mapped.ea .dst a0) ≠ .absent := by decide

theorem witness_SwapNotResult : (cells 1 2 0).kind ((cells 1 2 0).ea .dst a0) ≠ .absent ∧
    mapped.kind (mapped.ea .dst a0) ≠ .absent := by decide

theorem witness_NegResult : (cells 1 2 0).kind ((cells 1 2 0).ea .dst a0) ≠ .absent ∧
    mapped.kind (mapped.ea .dst a0) ≠ .absent := by decide

/-- Both places of the literal, and a result byte for each instruction. -/
theorem witness_BitLiteralResults :
    (cells 0xFF 2 0).kind ((cells 0xFF 2 0).ea .dst a0) ≠ .absent ∧
    ((0x05 : Byte).toNat = if Place.low = .low then (5 : BitVec 4).toNat else (5 : BitVec 4).toNat * 16) ∧
    ((0x50 : Byte).toNat = if Place.high = .low then (5 : BitVec 4).toNat else (5 : BitVec 4).toNat * 16) ∧
    (cells 0xFF 2 0).cellValue .dst ((cells 0xFF 2 0).ea .dst a0) = 0xFF ∧
    (∀ j, j < 8 → (0xAF : Byte).getLsbD j = ((0xFF : Byte).getLsbD j && !(0x50 : Byte).getLsbD j)) ∧
    (∀ j, j < 8 → (0xFF : Byte).getLsbD j = ((0xFF : Byte).getLsbD j || (0x50 : Byte).getLsbD j)) ∧
    (∀ j, j < 8 → (0xAF : Byte).getLsbD j = ((0xFF : Byte).getLsbD j ^^ (0x50 : Byte).getLsbD j)) := by decide

/-- Each instruction with the bit that enters; the carry set. -/
theorem witness_ShiftLeftResults :
    (cells 1 2 1).kind ((cells 1 2 1).ea .dst a0) ≠ .absent ∧
    ((Instr.shl a0, false) = (.shl a0, false) ∧ (Instr.rlc a0, true) = (.rlc a0, (cells 1 2 1).rs.getLsbD 0)) ∧
    (1 : Byte) = (cells 1 2 1).cellValue .dst ((cells 1 2 1).ea .dst a0) := by decide

theorem witness_ShiftRightResults :
    (cells 0x80 2 1).kind ((cells 0x80 2 1).ea .dst a0) ≠ .absent ∧
    (0x80 : Byte) = (cells 0x80 2 1).cellValue .dst ((cells 0x80 2 1).ea .dst a0) ∧
    (Instr.shr a0, false) = (.shr a0, false) ∧ (Instr.shra a0, true) = (.shra a0, (0x80 : Byte).getLsbD 7) ∧
    (Instr.rrc a0, true) = (.rrc a0, (cells 0x80 2 1).rs.getLsbD 0) := by decide

/-- C = 1 and C = 0. -/
theorem witness_AdcSbcResult :
    (cells 0xFF 2 1).kind ((cells 0xFF 2 1).ea .dst a0) ≠ .absent ∧
    (0xFF : Byte) = (cells 0xFF 2 1).cellValue .dst ((cells 0xFF 2 1).ea .dst a0) ∧
    (cells 0xFF 2 1).rs.getLsbD 0 = true ∧ (cells 0xFF 2 0).rs.getLsbD 0 = false := by decide

/-- LDR has no hypothesis; registers on both sides of #4. -/
theorem witness_LdrResult : (∃ t, exec (.ldr 3 0xFF) (cells 0 0 0) = .next t) ∧
    ∃ t, exec (.ldr 4 0xFF) (cells 0 0 0) = .next t := ⟨⟨_, rfl⟩, ⟨_, rfl⟩⟩

theorem witness_MtprResult : (cells 1 2 0).kind ((cells 1 2 0).ea .src a0) ≠ .absent ∧
    mapped.kind (mapped.ea .src a0) ≠ .absent := by decide

/-- An implemented and an unimplemented bit of #0 (SR_MASK 0Fh). -/
theorem witness_MfprResult : invState.kind (invState.ea .dst a0) ≠ .absent ∧
    (invState.platform.srMask.get 0).getLsbD 3 = true ∧ (invState.platform.srMask.get 0).getLsbD 4 = false := by decide

theorem witness_PushResult : State.dsp { cells 0 0 0 with dsp := 14 } ≠ 15 ∧
    State.dsp { cells 0 0 0 with dsp := 15 } = 15 ∧ (invState.platform.srMask.get 0).getLsbD 3 = true := by decide

theorem witness_PopResult : State.dsp { cells 0 0 0 with dsp := 1 } ≠ 0 ∧ (cells 0 0 0).dsp = 0 ∧ (7 : SvcReg) ≠ 4 := by
  decide

/-- Each jump, taken and not. -/
theorem witness_JumpResults :
    (Instr.jz 0x3FF, 1, true) = (.jz 0x3FF, 1, true) ∧ (cells 0 0 2).rs.getLsbD 1 = true ∧
    (cells 0 0 0).rs.getLsbD 1 = false := by decide

theorem witness_CallResults :
    ((Instr.jsr 0x200, (0x200 : PAddr)) = (.jsr 0x200, 0x200)) ∧
    (Instr.ijsr, State.ir1 (cells 0 0 0)) = (.ijsr, State.ir1 (cells 0 0 0)) ∧
    State.isp { cells 0 0 0 with isp := 6 } ≠ 7 ∧ State.isp { cells 0 0 0 with isp := 7 } = 7 :=
  ⟨rfl, rfl, by decide, rfl⟩

theorem witness_ReturnResults : State.isp { cells 0 0 0 with isp := 1 } ≠ 0 ∧ (cells 0 0 0).isp = 0 := by decide

/-- Both stacks with an entry; either one empty. -/
theorem witness_RtiResult :
    (State.isp { cells 0 0 0 with isp := 1, dsp := 1 } ≠ 0 ∧ State.dsp { cells 0 0 0 with isp := 1, dsp := 1 } ≠ 0) ∧
    State.isp { cells 0 0 0 with dsp := 1 } = 0 ∧ State.dsp { cells 0 0 0 with isp := 1 } = 0 := by decide

theorem witness_WaitStopResult : (Instr.wait, RunState.waiting) = (.wait, .waiting) ∧
    (Instr.stop, RunState.stopped) = (.stop, .stopped) := by decide

/-- No handler known at pc; one entered there; one the platform names there. -/
theorem witness_ResetInstructionResult :
    (State.pc { entryState with pc := 0x101, handlers := [0x100] } ∉ [(0x100 : PAddr)] ∧
      ∀ v ∈ entryState.platform.vectors, v.2 ≠ 0x101) ∧
    (0x100 : PAddr) ∈ [(0x100 : PAddr)] ∧ (∃ v ∈ entryState.platform.vectors, v.2 = 0x100) := by decide

theorem witness_SkspResult : State.isp { cells 0 0 0 with isp := 1 } ≠ 0 ∧ (cells 0 0 0).isp = 0 := by decide

end Sys2Proof.Tests
end

section
/-! PROOFS (00_scope.md). What an instruction can do to the status register, said once (R14, R27), and the two
statements of this family. -/

namespace Sys2Proof.Machine

/-- The condition flags read from RS and written back leave RS as it was. -/
theorem withFlags_flagsOf (rs : Byte) : withFlags rs (flagsOf rs) = rs := by
  apply BitVec.eq_of_getLsbD_eq
  intro j hj
  rw [getLsbD_withFlags]
  simp only [flagsOf]
  split_ifs with h5 h4 h2 h1 h0 <;> simp [*]

/-- The mask of SST and CST reaches RS[3:0] only (R176, R177). -/
theorem getLsbD_statusMask_hi (m : BitVec 4) {j : Nat} (hj : 4 ≤ j) : (0#4 ++ m : Byte).getLsbD j = false := by
  rw [BitVec.getLsbD_append, if_neg (Nat.not_lt.2 hj), BitVec.getLsbD_zero]

theorem getLsbD_setMask_hi (rs : Byte) (m : BitVec 4) {j : Nat} (hj : 4 ≤ j) :
    (rs ||| (0#4 ++ m)).getLsbD j = rs.getLsbD j := by
  rw [BitVec.getLsbD_or, getLsbD_statusMask_hi m hj, Bool.or_false]

theorem getLsbD_clearMask_hi (rs : Byte) (m : BitVec 4) {j : Nat} (hj : 4 ≤ j) :
    (rs &&& ~~~(0#4 ++ m)).getLsbD j = rs.getLsbD j := by
  rw [BitVec.getLsbD_and, BitVec.getLsbD_not, getLsbD_statusMask_hi m hj, Bool.not_false, Bool.and_true]
  by_cases h8 : j < 8
  · rw [decide_eq_true h8, Bool.and_true]
  · rw [BitVec.getLsbD_of_ge _ _ (Nat.le_of_not_lt h8), Bool.false_and]

/-- Everything an instruction that completes can leave in RS: by R14 the condition flags alone, but for SST, CST,
WAIT, STOP and RTI. An instruction that keeps RS is the first case, with the flags it had. -/
inductive RsChange (s : State) : Instr → Byte → Prop where
  | flags {i : Instr} (f : Flags) : RsChange s i (withFlags s.rs f)
  | sst (m : BitVec 4) : RsChange s (.sst m) (s.rs ||| (0#4 ++ m))
  | cst (m : BitVec 4) : RsChange s (.cst m) (s.rs &&& ~~~(0#4 ++ m))
  | wait : RsChange s .wait (withIe s.rs true)
  | stop : RsChange s .stop (withIe s.rs true)
  | rti : RsChange s .rti s.ipop.2.dpop.1

section
variable {s t : State} {i : Instr} {r : Byte}

theorem RsChange.of_eq (h : r = s.rs) : RsChange s i r := by
  rw [h, ← withFlags_flagsOf s.rs]
  exact .flags _

/-- RS after any instruction is one of the cases of `RsChange`. -/
theorem exec_rsChange (h : exec i s = .next t) : RsChange s i t.rs := by
  by_cases hp : plainData i = true
  · obtain ⟨f, hf⟩ := (exec_dataStep hp h).flags
    exact hf ▸ .flags f
  · cases i <;> try (exact absurd rfl hp)
    case mtpr => rw [execMtpr_next h]; exact .of_eq rfl
    case mfpr => rw [(execMfpr_next h).2]; exact .of_eq (by simp)
    case sst m => cases h; exact .sst m
    case cst m => cases h; exact .cst m
    case tof => cases h; exact .flags _
    case tdc => cases h; exact .flags _
    case rtsc c => cases h; simpa using RsChange.flags { s.flags with carry := c }
    case wait => cases h; exact .wait
    case stop => cases h; exact .stop
    case rti => cases h; exact .rti
    all_goals (cases h; exact .of_eq (by simp))

/-- RS.IE changes under SST, CST, WAIT, STOP and RTI only. -/
theorem RsChange.ie (h : RsChange s i r) (hne : r.getLsbD 3 ≠ s.rs.getLsbD 3) :
    (∃ m, i = .sst m) ∨ (∃ m, i = .cst m) ∨ i = .wait ∨ i = .stop ∨ i = .rti := by
  cases h with
  | flags f => exact absurd (withFlags_keeps s.rs f).1 hne
  | sst m => exact .inl ⟨m, rfl⟩
  | cst m => exact .inr (.inl ⟨m, rfl⟩)
  | wait | stop | rti => simp

/-- RS[7:6] stay under every instruction but RTI. -/
theorem RsChange.keeps_hi (h : RsChange s i r) (hi : i ≠ .rti) :
    r.getLsbD 6 = s.rs.getLsbD 6 ∧ r.getLsbD 7 = s.rs.getLsbD 7 := by
  cases h with
  | flags f => exact (withFlags_keeps s.rs f).2
  | sst m => exact ⟨getLsbD_setMask_hi s.rs m (by decide), getLsbD_setMask_hi s.rs m (by decide)⟩
  | cst m => exact ⟨getLsbD_clearMask_hi s.rs m (by decide), getLsbD_clearMask_hi s.rs m (by decide)⟩
  | wait | stop => exact ⟨getLsbD_withIe s.rs true 6, getLsbD_withIe s.rs true 7⟩
  | rti => exact absurd rfl hi

end

/-- Settles O17: every completed instruction leaves RS by one of the six ways of `RsChange`; the condition flags
alone touch neither IE nor bits 7:6, and a mask or IE touches no bit above 3. -/
theorem onlyListedInstructionsChangeIe : Obligations.OnlyListedInstructionsChangeIe := by
  intro i s t h
  have hrs := exec_rsChange h
  refine ⟨hrs.ie, fun hne => ?_⟩
  by_contra hi
  obtain ⟨h6, h7⟩ := hrs.keeps_hi hi
  exact hne.elim (· h6) (· h7)

/-- The state after reset is good: both memories and the record of handlers are empty, and every service register
is 0 (log entries 1 to 4). -/
theorem reset_inv : State.reset.Inv where
  memWf := rfl
  memInSpace := fun _ hc => absurd hc List.not_mem_nil
  memIsRam := fun _ hc => absurd hc List.not_mem_nil
  pmemWf := rfl
  srMasked := by decide
  handlersOnce := List.nodup_nil

/-- The parameters of the reset platform meet the bounds of R4, with equality. -/
theorem bounded_atReset : Platform.Bounded Platform.atReset where
  daddrBits := Nat.le_refl 11
  pmemWords := Nat.le_refl 1024

/-- Settles O14, field by field. -/
theorem resetHasInv : Obligations.ResetHasInv := ⟨reset_inv, bounded_atReset⟩

end Sys2Proof.Machine
end

section
/-! PROOFS (10_state.md). What each instruction can do to the state, said once (`exec_cases`); from it the frame, the
service registers, the stack-error request, the stack pointers and the invariant; then the statements of this
family. -/

namespace Sys2Proof.Machine

/-! ## What an instruction can do -/

/-- The instructions that change neither a service register, a stack, the stack-error request nor the run state. -/
def quiet : Instr → Bool
  | .ldr _ _ | .mtpr _ _ | .push _ | .pop _ => false
  | .jsr _ | .ijsr | .rts | .rtsc _ | .rti => false
  | .wait | .stop | .reset | .sksp => false
  | _ => true

/-- Data memory as it was, or after one store inside the data address space. -/
def MemChange (s : State) (m : Memory 8) : Prop :=
  m = s.mem ∨ ∃ a v, a < 2 ^ s.platform.daddrBits ∧ m = (s.storeCell a v).mem

/-- Nothing but pc, RS, data memory and the device accesses differs, and data memory by at most one store. -/
structure QuietStep (s t : State) : Prop where
  frame : t = { s with pc := t.pc, rs := t.rs, mem := t.mem, bus := t.bus }
  mem   : MemChange s t.mem

/-- Everything an instruction that completes can have done: a quiet one by its frame, every other one by the state it
gives. -/
inductive ExecCase (s : State) : Instr → State → Prop where
  | quiet {i : Instr} {t : State} (hi : quiet i = true) (ht : QuietStep s t) : ExecCase s i t
  | ldr (n : SvcReg) (k : Byte) : ExecCase s (.ldr n k) (s.writeSr n k).advance
  | mtpr (n : SvcReg) (o : Operand) :
      ExecCase s (.mtpr n o)
        ((s.logBus (s.readEvents (s.ea .src o))).writeSr n (s.cellValue .src (s.ea .src o))).advance
  | push (n : SvcReg) : ExecCase s (.push n) (s.dpush (s.readSr n)).advance
  | pop (n : SvcReg) : ExecCase s (.pop n) (s.dpop.2.writeSr n s.dpop.1).advance
  | jsr (a : PAddr) : ExecCase s (.jsr a) (s.call a)
  | ijsr : ExecCase s .ijsr (s.call s.ir1)
  | rts : ExecCase s .rts (s.ipop.2.setPc s.ipop.1)
  | rtsc (c : Bool) : ExecCase s (.rtsc c) ((s.ipop.2.setPc s.ipop.1).setFlags { s.flags with carry := c })
  | rti : ExecCase s .rti s.returnFromInterrupt
  | wait : ExecCase s .wait { (s.setRs (withIe s.rs true)).advance with run := .waiting }
  | stop : ExecCase s .stop { (s.setRs (withIe s.rs true)).advance with run := .stopped }
  | reset : ExecCase s .reset
      { s.advance with
        isp := if s.atHandlerStart then s.free.isp else 0
        dsp := if s.atHandlerStart then s.free.dsp else 0
        stackErr := false }
  | sksp : ExecCase s .sksp s.ipop.2.advance

section
variable {s t : State} {i : Instr}

theorem DataStep.quietStep (h : DataStep s t) : QuietStep s t where
  frame := by
    have hf : t = { s with pc := s.pc + 1, rs := t.rs, mem := t.mem, bus := t.bus } := h.frame
    rwa [← show t.pc = s.pc + 1 from congrArg State.pc hf] at hf
  mem := by
    obtain ⟨es, ⟨hm, -⟩ | ⟨a, v, -, ha, -, hm⟩⟩ := h.store
    · exact .inl hm
    · exact .inr ⟨a, v, ha, hm⟩

/-- A store and a move of pc: MFPR (R173). -/
theorem quietStep_storeCell {a : Nat} (v : Byte) (ha : a < 2 ^ s.platform.daddrBits) :
    QuietStep s (s.storeCell a v).advance where
  frame := by rw [State.storeCell_frame]; rfl
  mem := .inr ⟨a, v, ha, rfl⟩

theorem quietStep_branchIf (c : Bool) (a : PAddr) : QuietStep s (s.branchIf c a) where
  frame := by unfold State.branchIf; split <;> rfl
  mem := .inl (State.branchIf_mem s c a)

/-- The inversion of `exec`. -/
theorem exec_cases (h : exec i s = .next t) : ExecCase s i t := by
  cases i with
  | mov | cmp | add | sub | and | or | xor | movl | cmpl | addl | subl | bic | bis | btg | btt | swap | neg | not
  | shl | shr | shra | rlc | rrc | adc | sbc => exact .quiet rfl (exec_dataStep rfl h).quietStep
  | mfpr d n => rw [(execMfpr_next h).2]; exact .quiet rfl (quietStep_storeCell _ (s.ea_lt _ _))
  | jnz | jz | jns | js | jnc | jc => cases h; exact .quiet rfl (quietStep_branchIf _ _)
  | sst | cst | tof | tdc | jmp | ijmp | nop => cases h; exact .quiet rfl ⟨rfl, .inl rfl⟩
  | mtpr n o => rw [execMtpr_next h]; exact .mtpr n o
  | ldr n k => cases h; exact .ldr n k
  | push n => cases h; exact .push n
  | pop n => cases h; exact .pop n
  | jsr a => cases h; exact .jsr a
  | ijsr => cases h; exact .ijsr
  | rts => cases h; exact .rts
  | rtsc c => cases h; exact .rtsc c
  | rti => cases h; exact .rti
  | wait => cases h; exact .wait
  | stop => cases h; exact .stop
  | reset => cases h; exact .reset
  | sksp => cases h; exact .sksp

/-! ## The rest of the machine, and data memory -/

/-- No instruction changes program memory, the platform, the input, or the model's counter and record of handlers. -/
theorem exec_world (h : exec i s = .next t) :
    t.pmem = s.pmem ∧ t.platform = s.platform ∧ t.env = s.env ∧ t.tick = s.tick ∧ t.handlers = s.handlers := by
  cases exec_cases h with
  | quiet hi ht => rw [ht.frame]; exact ⟨rfl, rfl, rfl, rfl, rfl⟩
  | wait | stop | reset => exact ⟨rfl, rfl, rfl, rfl, rfl⟩
  | ldr | mtpr | push | pop | jsr | ijsr | rts | rtsc | rti | sksp => simp

/-- WAIT and STOP alone change the run state (R33). -/
theorem exec_run (h : exec i s = .next t) : t.run = s.run ∨ i = .wait ∨ i = .stop := by
  cases exec_cases h with
  | quiet hi ht => exact .inl (by rw [ht.frame])
  | wait => exact .inr (.inl rfl)
  | stop => exact .inr (.inr rfl)
  | ldr | mtpr | push | pop | jsr | ijsr | rts | rtsc | rti | reset | sksp => exact .inl (by simp)

theorem exec_memChange (h : exec i s = .next t) : MemChange s t.mem := by
  cases exec_cases h with
  | quiet hi ht => exact ht.mem
  | ldr | mtpr | push | pop | jsr | ijsr | rts | rtsc | rti | wait | stop | reset | sksp => exact .inl (by simp)

/-- Settles O21, from the frame of every instruction and its run state. -/
theorem instructionsLeaveTheWorldAlone : Obligations.InstructionsLeaveTheWorldAlone := fun _ _ _ h =>
  ⟨fun hne => (exec_run h).resolve_left hne, exec_world h⟩

/-! ## Service registers -/

/-- The instructions that write service register #n (R21). -/
def WritesSr (i : Instr) (n : SvcReg) : Prop := (∃ k, i = .ldr n k) ∨ (∃ o, i = .mtpr n o) ∨ i = .pop n

/-- The service registers stay, or the one that LDR, MTPR or POP names is written. -/
theorem exec_srChange (h : exec i s = .next t) :
    t.sr = s.sr ∨ ∃ n v, WritesSr i n ∧ t.sr = (s.writeSr n v).sr := by
  cases exec_cases h with
  | quiet hi ht => exact .inl (by rw [ht.frame])
  | ldr n k => exact .inr ⟨n, k, .inl ⟨k, rfl⟩, rfl⟩
  | mtpr n o => exact .inr ⟨n, s.cellValue .src (s.ea .src o), .inr (.inl ⟨o, rfl⟩), rfl⟩
  | pop n => exact .inr ⟨n, s.dpop.1, .inr (.inr rfl), by simp⟩
  | push | jsr | ijsr | rts | rtsc | rti | wait | stop | reset | sksp => exact .inl (by simp)

/-- Settles O18: a register that changed is the one the instruction wrote, since `writeSr` keeps every other. -/
theorem onlyLdrMtprPopWriteServiceRegisters : Obligations.OnlyLdrMtprPopWriteServiceRegisters := by
  intro i s t m h hne
  obtain hs | ⟨n, v, hw, hs⟩ := exec_srChange h
  · exact absurd (by rw [hs]) hne
  · by_cases hm : m = n
    · exact hm ▸ hw
    · exact absurd (by rw [hs, State.get_writeSr, if_neg hm]) hne

/-! ## The stack-error request and the stack pointers -/

/-- A quiet instruction can meet no stack error and moves no pointer. -/
theorem stackErrorCause_of_quiet (hi : quiet i = true) : stackErrorCause s i = false := by
  revert hi; cases i <;> simp [quiet, stackErrorCause]

theorem moves_of_quiet (hi : quiet i = true) : ispMove i = 0 ∧ dspMove i = 0 := by
  revert hi; cases i <;> simp [quiet, ispMove, dspMove]

theorem State.call_stackErr (s : State) (a : PAddr) : (s.call a).stackErr = (s.stackErr || decide (s.isp = 7)) :=
  s.ipush_stackErr (s.pc + 1)

theorem State.returnFromInterrupt_stackErr (s : State) :
    s.returnFromInterrupt.stackErr = (s.stackErr || (decide (s.isp = 0) || decide (s.dsp = 0))) := by
  simp [State.returnFromInterrupt, State.dpop_stackErr, State.ipop_stackErr, Bool.or_assoc]

/-- Settles O19: the stack operations set the request at their limits (`ipush_stackErr` and its like), RESET clears
it, and no other instruction touches it. -/
theorem stackErrorIsLatchedUntilReset : Obligations.StackErrorIsLatchedUntilReset := by
  refine ⟨fun i s t h => ?_, fun _ => rfl⟩
  cases exec_cases h with
  | quiet hi ht =>
    have hne : i ≠ .reset := by rintro rfl; cases hi
    rw [if_neg hne, stackErrorCause_of_quiet hi, Bool.or_false, ht.frame]
  | reset => rfl
  | push n => exact s.dpush_stackErr _
  | pop n => exact s.dpop_stackErr
  | jsr | ijsr => exact s.call_stackErr _
  | rts | rtsc | sksp => exact s.ipop_stackErr
  | rti => exact s.returnFromInterrupt_stackErr
  | ldr | mtpr | wait | stop => exact (Bool.or_false _).symm

/-- Away from its limit each stack operation moves its pointer by one (R11). -/
theorem State.ipush_isp_val (s : State) (a : PAddr) (h : s.isp ≠ 7) : (s.ipush a).isp.val = s.isp.val + 1 := by
  rw [s.ipush_ok a h]; exact (Fin.val_add_one s.isp).trans (if_neg h)

theorem State.call_isp_val (s : State) (a : PAddr) (h : s.isp ≠ 7) : (s.call a).isp.val = s.isp.val + 1 :=
  s.ipush_isp_val (s.pc + 1) h

theorem State.dpush_dsp_val (s : State) (v : Byte) (h : s.dsp ≠ 15) : (s.dpush v).dsp.val = s.dsp.val + 1 := by
  rw [s.dpush_ok v h]; exact (Fin.val_add_one s.dsp).trans (if_neg h)

theorem State.ipop_isp_val (s : State) (h : s.isp ≠ 0) : s.ipop.2.isp.val + 1 = s.isp.val := by
  rw [s.ipop_ok h]; exact (congrArg (· + 1) (Fin.val_sub_one_of_ne_zero h)).trans (by omega)

theorem State.dpop_dsp_val (s : State) (h : s.dsp ≠ 0) : s.dpop.2.dsp.val + 1 = s.dsp.val := by
  rw [s.dpop_ok h]; exact (congrArg (· + 1) (Fin.val_sub_one_of_ne_zero h)).trans (by omega)

theorem State.returnFromInterrupt_isp_val (s : State) (h : s.isp ≠ 0) :
    s.returnFromInterrupt.isp.val + 1 = s.isp.val := by
  simpa [State.returnFromInterrupt] using s.ipop_isp_val h

theorem State.returnFromInterrupt_dsp_val (s : State) (h : s.dsp ≠ 0) :
    s.returnFromInterrupt.dsp.val + 1 = s.dsp.val := by
  simpa [State.returnFromInterrupt] using s.ipop.2.dpop_dsp_val (by simpa using h)

/-- Settles O20: `stackErrorCause` excludes the limit at which a pointer would not move by one, and no instruction
but the stack operations and RESET moves a pointer. -/
theorem stackPointersMoveByOne : Obligations.StackPointersMoveByOne := by
  intro i s t h hc hne
  cases exec_cases h with
  | quiet hi ht => rw [ht.frame, (moves_of_quiet hi).1, (moves_of_quiet hi).2]; simp
  | push n =>
    have hd := s.dpush_dsp_val (s.readSr n) (of_decide_eq_false hc)
    simp [ispMove, dspMove, hd]
  | pop n =>
    have hd := s.dpop_dsp_val (of_decide_eq_false hc)
    simp only [ispMove, dspMove, State.advance_isp, State.advance_dsp, State.writeSr_isp, State.writeSr_dsp,
      State.dpop_isp]
    omega
  | jsr | ijsr => simp [ispMove, dspMove, s.call_isp_val _ (of_decide_eq_false hc)]
  | rts | rtsc | sksp =>
    have hi := s.ipop_isp_val (of_decide_eq_false hc)
    simp only [ispMove, dspMove, State.advance_isp, State.advance_dsp, State.setPc_isp, State.setPc_dsp,
      State.setFlags_isp, State.setFlags_dsp, State.ipop_dsp]
    omega
  | rti =>
    obtain ⟨hi0, hd0⟩ := Bool.or_eq_false_iff.1 hc
    have hi := s.returnFromInterrupt_isp_val (of_decide_eq_false hi0)
    have hd := s.returnFromInterrupt_dsp_val (of_decide_eq_false hd0)
    simp only [ispMove, dspMove]
    omega
  | reset => exact absurd rfl hne
  | ldr | mtpr | wait | stop => simp [ispMove, dspMove]

/-! ## The invariant -/

theorem MemChange.wf {m : Memory 8} (h : MemChange s m) (hs : s.Inv) : Memory.wf m = true := by
  obtain rfl | ⟨a, v, -, rfl⟩ := h
  · exact hs.memWf
  · exact s.wf_storeCell a v hs.memWf

/-- A byte listed after a change was listed before, or is the one stored; either way RAM of the data address space. -/
theorem MemChange.cells {m : Memory 8} (h : MemChange s m) (hs : s.Inv) {c : Nat × Byte} (hc : c ∈ m) :
    c.1 < 2 ^ s.platform.daddrBits ∧ s.kind c.1 = .ram := by
  obtain rfl | ⟨a, v, ha, rfl⟩ := h
  · exact ⟨hs.memInSpace c hc, hs.memIsRam c hc⟩
  · obtain ⟨rfl, hk⟩ | hc := s.mem_storeCell hc
    · exact ⟨ha, hk⟩
    · exact ⟨hs.memInSpace c hc, hs.memIsRam c hc⟩

/-- A service register stores its implemented bits only, before and after a write of one. -/
theorem writeSr_masked (hs : s.Inv) (n m : SvcReg) (v : Byte) :
    (s.writeSr n v).sr.get m &&& ~~~(s.platform.srMask.get m) = 0#8 := by
  rw [State.get_writeSr]
  split
  · rename_i hm
    simp [hm, BitVec.and_assoc]
  · exact hs.srMasked m

theorem exec_inv (hs : s.Inv) (h : exec i s = .next t) : t.Inv := by
  obtain ⟨hpmem, hplat, -, -, hhand⟩ := exec_world h
  have hm := exec_memChange h
  refine ⟨hm.wf hs, fun c hc => ?_, fun c hc => ?_, hpmem ▸ hs.pmemWf, fun m => ?_, hhand ▸ hs.handlersOnce⟩
  · rw [hplat]; exact (hm.cells hs hc).1
  · rw [State.kind_congr hplat]; exact (hm.cells hs hc).2
  · rw [hplat]
    obtain hsr | ⟨n, v, -, hsr⟩ := exec_srChange h
    · rw [hsr]; exact hs.srMasked m
    · rw [hsr]; exact writeSr_masked hs n m v

/-- Entry records the vector as a handler, or, kept out at a full stack, records nothing (log entry 11). -/
theorem State.enterInterrupt_handlers (s : State) (src : IntSource) :
    (s.enterInterrupt src).handlers = s.handlers ∨
      (s.enterInterrupt src).handlers = insertOnce (s.vector src) s.handlers := by
  unfold State.enterInterrupt
  split
  · split
    · exact .inr rfl
    · exact .inl rfl
  · exact .inr (by simp [State.toHandler, State.vector])

theorem enterInterrupt_inv (hs : s.Inv) (src : IntSource) : (s.enterInterrupt src).Inv where
  memWf := by simpa using hs.memWf
  memInSpace := by simpa using hs.memInSpace
  memIsRam := by rw [State.kind_congr (s.enterInterrupt_platform src)]; simpa using hs.memIsRam
  pmemWf := by simpa using hs.pmemWf
  srMasked := by simpa using hs.srMasked
  handlersOnce := by
    obtain h | h := s.enterInterrupt_handlers src
    · rw [h]; exact hs.handlersOnce
    · rw [h]; exact nodup_insertOnce _ hs.handlersOnce

/-- The end of a boundary touches nothing that the invariant speaks of. -/
theorem endBoundary_inv (hs : s.Inv) : s.endBoundary.Inv :=
  ⟨hs.memWf, hs.memInSpace, hs.memIsRam, hs.pmemWf, hs.srMasked, hs.handlersOnce⟩

theorem step_inv (hs : s.Inv) (h : step s = .next t) : t.Inv := by
  obtain ⟨src, -, rfl⟩ | ⟨i, u, -, -, -, hx, rfl⟩ | ⟨-, -, rfl⟩ := step_cases h
  · exact endBoundary_inv (enterInterrupt_inv hs src)
  · exact endBoundary_inv (exec_inv hs hx)
  · exact endBoundary_inv hs

/-- No step changes program memory or the platform (R35, R37). -/
theorem step_pmem_platform (h : step s = .next t) : t.pmem = s.pmem ∧ t.platform = s.platform := by
  obtain ⟨src, -, rfl⟩ | ⟨i, u, -, -, -, hx, rfl⟩ | ⟨-, -, rfl⟩ := step_cases h
  · simp
  · obtain ⟨hpmem, hplat, -⟩ := exec_world hx
    exact ⟨hpmem, hplat⟩
  · exact ⟨rfl, rfl⟩

/-- Settles O13, by what a step can be: an entry, an instruction, or an idle boundary. -/
theorem stepKeepsInv : Obligations.StepKeepsInv := fun _ _ hs h => step_inv hs h

/-- Settles O15, by induction on the number of steps. -/
theorem runKeepsInv : Obligations.RunKeepsInv := by
  intro k
  induction k with
  | zero =>
    intro s t hs h
    cases h
    exact ⟨hs, rfl, rfl⟩
  | succ k ih =>
    intro s t hs h
    obtain ⟨u, hu, hr⟩ := run_succ_next h
    obtain ⟨hpmem, hplat⟩ := step_pmem_platform hu
    obtain ⟨ht, hpmem', hplat'⟩ := ih u t (step_inv hs hu) hr
    exact ⟨ht, hpmem'.trans hpmem, hplat'.trans hplat⟩

/-! ## Waiting and stopped cores, and reset -/

/-- `CanEnter` is membership in the model's list of candidates. -/
theorem canEnter_iff_mem_candidates {src : IntSource} : s.CanEnter src ↔ src ∈ s.candidates := by
  simp [State.CanEnter, State.mem_candidates, State.isEnabled, State.ie, ieOf]

/-- Entry with room on both stacks leaves the core running at the vector (R244). -/
theorem State.enterInterrupt_running (s : State) (src : IntSource) (hi : s.isp ≠ 7) (hd : s.dsp ≠ 15) :
    (s.enterInterrupt src).run = .running ∧ (s.enterInterrupt src).pc = s.vector src := by
  rw [s.enterInterrupt_ok src hi hd]
  exact ⟨rfl, by simp [State.toHandler, State.vector]⟩

theorem step_of_accepted {src : IntSource} (h : s.accepted = some src) :
    step s = .next (s.enterInterrupt src).endBoundary := by
  simp [step, h]

/-- A core that is not running passes over its sources only when none can enter (R259). -/
theorem not_canEnter_of_accepted_none (ha : s.accepted = none) (hr : s.run ≠ .running) (src : IntSource) :
    ¬ s.CanEnter src := by
  obtain ⟨src', ha', -⟩ | ⟨-, -, hc⟩ := s.accepted_cases
  · exact absurd (ha.symm.trans ha') (by simp)
  · rw [canEnter_iff_mem_candidates, hc hr]; exact List.not_mem_nil

theorem canEnter_of_accepted {src : IntSource} (ha : s.accepted = some src) : s.CanEnter src := by
  obtain ⟨src', ha', hm, -⟩ | ⟨ha', -⟩ := s.accepted_cases
  · cases ha.symm.trans ha'
    exact canEnter_iff_mem_candidates.2 hm
  · exact absurd (ha.symm.trans ha') (by simp)

end

/-- Settles O12: a core that is not running fetches nothing, so its step is an entry or an idle boundary; idle only
when no source can enter. -/
theorem waitingCoreOnlyEnters : Obligations.WaitingCoreOnlyEnters := by
  refine ⟨fun s t hr h => ?_, fun s src hr hsrc hi hd => ?_⟩
  · obtain ⟨src, ha, rfl⟩ | ⟨i, u, -, hrun, -⟩ | ⟨ha, -, rfl⟩ := step_cases h
    · exact .inr ⟨src, ha, canEnter_of_accepted ha, s.enterInterrupt_running src⟩
    · exact absurd hrun hr
    · exact .inl ⟨not_canEnter_of_accepted_none ha hr, rfl⟩
  · cases ha : s.accepted with
    | none => exact absurd hsrc (not_canEnter_of_accepted_none ha hr src)
    | some src' =>
      exact ⟨_, src', step_of_accepted ha, canEnter_of_accepted ha, s.enterInterrupt_running src' hi hd⟩

/-- Settles O29: the fields of the reset state are those values (D20, log entries 3 and 4). -/
theorem resetState : Obligations.ResetState := ⟨rfl, rfl, rfl, rfl, rfl, rfl⟩

end Sys2Proof.Machine
end

section
/-! PROOFS (20_memory.md). When an instruction answers a next state and what it does to data memory, the effective
address and the data map, the operand reads, and a stack cell over a run while the pointer stays above it; then the
statements of this family. -/

namespace Sys2Proof.Machine

/-! ## Program memory -/

/-- Settles O16, from `step_pmem_platform`. -/
theorem noStepWritesProgramMemory : Obligations.NoStepWritesProgramMemory := by
  intro s t h
  obtain ⟨hpmem, hplat⟩ := step_pmem_platform h
  exact ⟨hpmem, hplat, fun a => by rw [hpmem]⟩

/-! ## Instructions that write no data operand -/

section
variable {s t : State} {i : Instr} {dst src : Operand}

theorem readTest_mem {f : Byte → Alu} (h : readTest dst f s = .next t) : t.mem = s.mem := by
  rw [readTest_of_present (readTest_next h)] at h
  cases h
  rfl

theorem compareCells_mem {f : Byte → Byte → Alu} (h : compareCells dst src f s = .next t) : t.mem = s.mem := by
  obtain ⟨hs, hd⟩ := compareCells_next h
  rw [compareCells_of_present hs hd] at h
  cases h
  rfl

/-- An instruction without a data operand reads and writes no cell. -/
theorem exec_of_no_dataOperands (hi : dataOperands i = []) (h : exec i s = .next t) :
    t.mem = s.mem ∧ t.bus = s.bus := by
  cases i with
  | mov | cmp | add | sub | and | or | xor | movl | cmpl | addl | subl | bic | bis | btg | btt | swap | neg | not
  | shl | shr | shra | rlc | rrc | adc | sbc | mtpr | mfpr => cases hi
  | _ => cases h; simp

theorem exec_mem_of_writesNoData (hi : writesNoData i = true) (h : exec i s = .next t) : t.mem = s.mem := by
  cases i with
  | mov | add | sub | and | or | xor | movl | addl | subl | bic | bis | btg | swap | neg | not
  | shl | shr | shra | rlc | rrc | adc | sbc | mfpr => cases hi
  | cmp d o => simp only [exec, execCmp] at h; exact compareCells_mem h
  | cmpl d k => simp only [exec, execCmpl] at h; exact readTest_mem h
  | btt d p k => simp only [exec, execBtt] at h; exact readTest_mem h
  | mtpr => rw [execMtpr_next h]; rfl
  | _ => exact (exec_of_no_dataOperands rfl h).1

end

/-- Settles O22: memory is the same list, and an instruction without a data operand logs nothing. -/
theorem onlyDataWritersTouchMemory : Obligations.OnlyDataWritersTouchMemory := fun _ _ _ h =>
  ⟨fun hi a => by rw [exec_mem_of_writesNoData hi h], fun hi => (exec_of_no_dataOperands hi h).2⟩

/-! ## Completion -/

/-- A result that is a next state when every operand's address is defined by the data map, and the refusal of R68 when
one is not. -/
def Answers (s : State) (ops : List (Role × Operand)) (r : Result) : Prop :=
  ((∀ p ∈ ops, s.kind (s.ea p.1 p.2) ≠ .absent) → ∃ t, r = .next t) ∧
    ((∃ p ∈ ops, s.kind (s.ea p.1 p.2) = .absent) → r = .refused .undefinedDataAddress)

section
variable {s t : State}

theorem answers_none : Answers s [] (.next t) :=
  ⟨fun _ => ⟨t, rfl⟩, fun ⟨_, hp, _⟩ => absurd hp List.not_mem_nil⟩

/-- The presence check of an access to one operand. -/
theorem answers_one (role : Role) (o : Operand) :
    Answers s [(role, o)] (if s.present (s.ea role o) then .next t else .refused .undefinedDataAddress) := by
  by_cases hk : s.kind (s.ea role o) = .absent <;> simp [Answers, State.present, hk]

/-- The presence check of an access to two operands. -/
theorem answers_two (dst src : Operand) :
    Answers s [(.src, src), (.dst, dst)]
      (if s.present (s.ea .src src) && s.present (s.ea .dst dst) then .next t
        else .refused .undefinedDataAddress) := by
  by_cases hs : s.kind (s.ea .src src) = .absent
  · simp [Answers, State.present, hs]
  · by_cases hd : s.kind (s.ea .dst dst) = .absent <;> simp [Answers, State.present, hs, hd]

/-- Every instruction makes the presence check of its own operands and no other. -/
theorem exec_answers (i : Instr) (s : State) : Answers s (dataOperands i) (exec i s) := by
  cases i with
  | mov d o | cmp d o | add d o | sub d o | and d o | or d o | xor d o => exact answers_two d o
  | movl d | cmpl d | addl d | subl d | bic d | bis d | btg d | btt d | swap d | neg d | not d | shl d | shr d | shra d
  | rlc d | rrc d | adc d | sbc d | mfpr d => exact answers_one .dst d
  | mtpr n o => exact answers_one .src o
  | _ => exact answers_none

end

/-- Settles O23: the statement is `Answers` for the instruction's own operands (`exec_answers`). -/
theorem executesUnlessAnOperandIsAbsent : Obligations.ExecutesUnlessAnOperandIsAbsent := exec_answers

/-! ## A stack cell over a run -/

section
variable {s t u : State} {p : State → Prop} {k : Nat} {i : Instr}

/-- What every step from a state of p keeps, the whole run keeps. -/
theorem StepsWhile.keeps {α : Type} (f : State → α) (hf : ∀ x y, p x → step x = .next y → f y = f x)
    (h : StepsWhile p k t u) : f u = f t := by
  induction k generalizing t with
  | zero => rw [show t = u from h]
  | succ k ih =>
    obtain ⟨hp, x, hx, hr⟩ := h
    exact (ih hr).trans (hf t x hp hx)

theorem StepsWhile.platform_eq (h : StepsWhile p k t u) : u.platform = t.platform :=
  h.keeps State.platform fun _ _ _ hx => (step_pmem_platform hx).2

/-- A step writes the stacks at the pointers only, so a cell below the pointer all along is kept. -/
theorem StepsWhile.istack_get {j : Fin 8} (h : StepsWhile (fun x => j.val < x.isp.val) k t u) :
    u.istack.get j = t.istack.get j :=
  h.keeps (fun x => x.istack.get j) fun _ _ hp hx => (step_other_cells hx).1 j (Fin.ne_of_lt hp)

theorem StepsWhile.dstack_get {j : Fin 16} (h : StepsWhile (fun x => j.val < x.dsp.val) k t u) :
    u.dstack.get j = t.dstack.get j :=
  h.keeps (fun x => x.dstack.get j) fun _ _ hp hx => (step_other_cells hx).2 j (Fin.ne_of_lt hp)

/-- The step of a state about to run i is i, then the end of the boundary. -/
theorem State.AboutToRun.step_eq (h : s.AboutToRun i) (hx : exec i s = .next t) : step s = .next t.endBoundary := by
  obtain ⟨ha, hr, hf⟩ := h
  rw [step_of_fetch ha hr hf, hx, retireResult]

theorem State.AboutToRun.eq_of_step (h : s.AboutToRun i) (hx : exec i s = .next u) (hs : step s = .next t) :
    t = u.endBoundary := by
  cases (h.step_eq hx).symm.trans hs
  rfl

end

section
variable {s t : State}

/-! A push with room, and a pop from one above a cell. -/

theorem State.dpush_get (v : Byte) (h : s.dsp ≠ 15) : (s.dpush v).dstack.get s.dsp = v := by
  rw [s.dpush_ok v h]
  exact (get_set s.dstack s.dsp s.dsp v).trans (if_pos rfl)

theorem State.call_get (a : PAddr) (h : s.isp ≠ 7) : (s.call a).istack.get s.isp = s.pc + 1 := by
  rw [State.call, State.setPc_istack, s.ipush_ok (s.pc + 1) h]
  exact (get_set s.istack s.isp s.isp (s.pc + 1)).trans (if_pos rfl)

/-- A pointer one above j is not at its lower limit, and a pop takes it to j. -/
theorem sub_one_of_val_eq {n : Nat} {p j : Fin (n + 1)} (h : p.val = j.val + 1) : p ≠ 0 ∧ p - 1 = j := by
  have hp : p ≠ 0 := fun h0 => by simp [h0] at h
  exact ⟨hp, Fin.ext (by rw [Fin.val_sub_one_of_ne_zero hp]; omega)⟩

theorem State.dpop_of_above {j : Fin 16} (h : s.dsp.val = j.val + 1) :
    s.dpop = (s.dstack.get j, { s with dsp := j }) := by
  obtain ⟨hne, hj⟩ := sub_one_of_val_eq h
  rw [s.dpop_ok hne, hj]

theorem State.ipop_of_above {j : Fin 8} (h : s.isp.val = j.val + 1) :
    s.ipop = (s.istack.get j, { s with isp := j }) := by
  obtain ⟨hne, hj⟩ := sub_one_of_val_eq h
  rw [s.ipop_ok hne, hj]

/-- POP #m with DSP one above the cell j (R175). -/
theorem execPop_of_above {j : Fin 16} (m : SvcReg) (h : s.dsp.val = j.val + 1) :
    ∃ t, exec (.pop m) s = .next t ∧ t.sr.get m = (s.dstack.get j &&& s.platform.srMask.get m) ∧
      (∀ n, n ≠ m → t.sr.get n = s.sr.get n) ∧ t.dsp = j ∧ t.rs = s.rs ∧ t.pc = s.pc + 1 := by
  refine ⟨(s.dpop.2.writeSr m s.dpop.1).advance, rfl, ?_⟩
  rw [s.dpop_of_above h]
  refine ⟨?_, fun n hn => ?_, rfl, rfl, rfl⟩
  · rw [State.advance_sr, State.get_writeSr, if_pos rfl]
  · rw [State.advance_sr, State.get_writeSr, if_neg hn]

/-- RTS and RTSC with ISP one above the cell j (R201, R202). -/
theorem execRet_of_above {ret : Instr} {j : Fin 8} (hret : ret = .rts ∨ ∃ c, ret = .rtsc c)
    (h : s.isp.val = j.val + 1) : ∃ t, exec ret s = .next t ∧ t.pc = s.istack.get j ∧ t.isp = j := by
  obtain rfl | ⟨c, rfl⟩ := hret
  · refine ⟨s.ipop.2.setPc s.ipop.1, rfl, ?_⟩
    rw [s.ipop_of_above h]
    exact ⟨rfl, rfl⟩
  · refine ⟨(s.ipop.2.setPc s.ipop.1).setFlags { s.flags with carry := c }, rfl, ?_⟩
    rw [s.ipop_of_above h]
    exact ⟨rfl, rfl⟩

end

theorem pop_after_push (s : State) (n m : SvcReg) (hd : s.dsp ≠ 15) :
    ∃ t u, exec (.push n) s = .next t ∧ exec (.pop m) t = .next u ∧
      u.sr.get m = (s.readSr n &&& s.platform.srMask.get m) ∧ (∀ k, k ≠ m → u.sr.get k = s.sr.get k) ∧
      u.dsp = s.dsp ∧ u.rs = s.rs ∧ u.pc = s.pc + 2 := by
  obtain ⟨u, hu, hm, hother, hdsp, hrs, hpc⟩ :=
    execPop_of_above (s := (s.dpush (s.readSr n)).advance) m (s.dpush_dsp_val (s.readSr n) hd)
  refine ⟨_, u, rfl, hu, ?_, fun k hk => ?_, hdsp, ?_, ?_⟩
  · simpa [s.dpush_get _ hd] using hm
  · simpa using hother k hk
  · simpa using hrs
  · simpa [BitVec.add_assoc] using hpc

theorem rts_after_jsr (s : State) (a : PAddr) (hi : s.isp ≠ 7) :
    ∃ t u, exec (.jsr a) s = .next t ∧ exec .rts t = .next u ∧ u.pc = s.pc + 1 ∧ u.isp = s.isp ∧ u.rs = s.rs := by
  refine ⟨s.call a, _, rfl, rfl, ?_⟩
  rw [(s.call a).ipop_of_above (s.call_isp_val a hi)]
  exact ⟨s.call_get a hi, rfl, s.call_rs a⟩

/-- Settles O27: nothing between the push and the pop writes the push's cell, as the pointer stays above it
(`StepsWhile.dstack_get`, `StepsWhile.istack_get`). -/
theorem popGivesWhatPushSaved : Obligations.PopGivesWhatPushSaved := by
  refine ⟨pop_after_push, rts_after_jsr, ?_, ?_⟩
  · intro s t u n m k hs hd hst hrun hu hdsp
    have ht : t = (s.dpush (s.readSr n)).advance.endBoundary := hs.eq_of_step rfl hst
    have hcell : u.dstack.get s.dsp = s.readSr n := by
      rw [hrun.dstack_get, ht]; exact s.dpush_get _ hd
    have hplat : u.platform = s.platform := hrun.platform_eq.trans (step_pmem_platform hst).2
    obtain ⟨v, hv, hm, hother, hdsp', hrs, hpc⟩ := execPop_of_above m hdsp
    rw [hcell, hplat] at hm
    exact ⟨v.endBoundary, hu.step_eq hv, hm, hother, hdsp', hrs, hpc⟩
  · intro s t u call ret k hcall hret hs hi hst hrun hu hisp
    obtain ⟨a, ha⟩ : ∃ a, exec call s = .next (s.call a) := by
      obtain ⟨a, rfl⟩ | rfl := hcall
      · exact ⟨a, rfl⟩
      · exact ⟨s.ir1, rfl⟩
    have hcell : u.istack.get s.isp = s.pc + 1 := by
      rw [hrun.istack_get, hs.eq_of_step ha hst]; exact s.call_get a hi
    obtain ⟨v, hv, hpc, hisp'⟩ := execRet_of_above hret hisp
    exact ⟨v.endBoundary, hu.step_eq hv, hpc.trans hcell, hisp'⟩

/-! ## The effective address and the data map -/

/-- An operand's field: the number of its segment register, then its index (R52). -/
theorem toNat_operand_bits (o : Operand) : o.bits.toNat = (segReg o.seg).val * 8 + o.idx.toNat := by
  have hseg : o.seg.bits.toNat = (segReg o.seg).val := by cases o.seg <;> rfl
  have hlt := o.idx.isLt
  have hreg : (segReg o.seg).val < 4 := by cases o.seg <;> decide
  rw [Operand.bits, BitVec.toNat_ofNat, hseg, Nat.mod_eq_of_lt (by omega)]

/-- A register's value with an index concatenated (R51). -/
theorem toNat_append_index (v : Byte) (x : BitVec 3) : (v ++ x).toNat = v.toNat * 8 + x.toNat := by
  rw [BitVec.toNat_append, ← Nat.shiftLeft_add_eq_or_of_lt x.isLt, Nat.shiftLeft_eq]

theorem State.ea_direct (s : State) (role : Role) (o : Operand) (h : s.indirectLoaded = false) :
    s.ea role o = ((s.sr.get (segReg o.seg)).toNat * 8 + o.idx.toNat) % 2 ^ s.platform.daddrBits := by
  simp [State.ea, h]

section
variable {s : State} {a : Nat}

theorem State.kind_of_first {r : DataRegion} {before after : List DataRegion}
    (hmap : s.platform.dataMap = before ++ r :: after)
    (hbefore : ∀ q ∈ before, ¬(q.base ≤ a ∧ a < q.base + q.size)) (hlo : r.base ≤ a) (hhi : a < r.base + r.size) :
    s.kind a = r.kind := by
  have hnone : before.find? (fun q => decide (q.base ≤ a) && decide (a < q.base + q.size)) = none :=
    List.find?_eq_none.2 fun q hq => by simpa using hbefore q hq
  simp [State.kind, hmap, List.find?_append, hnone, hlo, hhi]

theorem State.kind_of_uncovered (h : ∀ q ∈ s.platform.dataMap, ¬(q.base ≤ a ∧ a < q.base + q.size)) :
    s.kind a = .ram := by
  have hnone : s.platform.dataMap.find? (fun q => decide (q.base ≤ a) && decide (a < q.base + q.size)) = none :=
    List.find?_eq_none.2 fun q hq => by simpa using h q hq
  simp [State.kind, hnone]

end

/-- Settles O24: the operand's field holds its segment register's number and its index (`toNat_operand_bits`), and the
data map is searched from its head. -/
theorem effectiveAddress : Obligations.EffectiveAddress := by
  refine ⟨fun s role o h => ?_, fun _ _ _ _ _ => State.kind_of_first, fun _ _ => State.kind_of_uncovered⟩
  have hea := s.ea_direct role o h
  refine ⟨by rw [toNat_append_index, hea], hea, fun n hn => ?_⟩
  have hbits := toNat_operand_bits o
  have hidx := o.idx.isLt
  have hreg : n = segReg o.seg := Fin.ext (by omega)
  rw [hea, hreg, hbits, Nat.mul_add_mod_of_lt hidx]

/-! ## Operand reads -/

section
variable {s : State} {a : Nat}

theorem State.cellValue_ram (role : Role) (h : s.kind a = .ram) : s.cellValue role a = s.ramByte a := by
  simp [State.cellValue, h]

/-- What an address answers to a read depends on no other address. -/
theorem State.cellValue_storeCell_other {b : Nat} (role : Role) (v : Byte) (hb : b ≠ a) :
    (s.storeCell a v).cellValue role b = s.cellValue role b := by
  have hk : (s.storeCell a v).kind = s.kind := State.kind_congr (s.storeCell_platform a v)
  simp only [State.cellValue, State.ramByte, hk, s.read_storeCell_other a v hb, State.storeCell_tick]

theorem State.cellValue_storeCell_same (role : Role) (v : Byte) (ha : s.kind a = .ram) :
    (s.storeCell a v).cellValue role a = v := by
  have hk : (s.storeCell a v).kind a = .ram := by rw [State.kind_congr (s.storeCell_platform a v), ha]
  rw [State.cellValue_ram role hk, s.storeCell_ram a v ha]
  simp [State.ramByte]

theorem State.readEvents_device (h : s.kind a = .device) : s.readEvents a = [.read a] := by
  simp [State.readEvents, h]

theorem State.readEvents_ram (h : s.kind a = .ram) : s.readEvents a = [] := by
  simp [State.readEvents, h]

end

section
variable {s : State} {sa da : Nat}

/-- Two device reads: both events, in the order the free values give (R58, D17). -/
theorem State.pairEvents_devices (hs : s.kind sa = .device) (hd : s.kind da = .device) :
    s.pairEvents sa da =
      if sa = da ∧ s.free.readsOnce then [.read sa]
      else if s.free.srcFirst then [.read sa, .read da] else [.read da, .read sa] := by
  simp [State.pairEvents, State.readEvents_device hs, State.readEvents_device hd]

theorem State.pairEvents_src_ram (hs : s.kind sa = .ram) : s.pairEvents sa da = s.readEvents da := by
  simp [State.pairEvents, State.readEvents_ram hs]

theorem State.pairEvents_dst_ram (hd : s.kind da = .ram) : s.pairEvents sa da = s.readEvents sa := by
  rw [State.pairEvents, State.readEvents_ram hd]
  cases s.readEvents sa <;> rfl

/-- The dst value is dst's own answer, unless one read of one device register served both operands. -/
theorem State.pairDst_own (h : ¬(s.kind da = .device ∧ sa = da ∧ s.free.readsOnce)) :
    s.pairDst sa da = s.cellValue .dst da := by
  unfold State.pairDst
  split
  · rename_i hk
    exact if_neg fun hc => h ⟨hk, hc⟩
  · rfl
  · rfl

theorem State.pairDst_shared (hd : s.kind da = .device) (h : s.free.readsOnce = true) :
    s.pairDst da da = s.cellValue .src da := by
  simp [State.pairDst, hd, h]

end

/-- Settles O25: a store in RAM logs nothing and writes one byte. -/
theorem ramReadsTheLastWrite : Obligations.RamReadsTheLastWrite := fun s role a v ha =>
  ⟨State.cellValue_storeCell_same role v ha, fun _ hb => State.cellValue_storeCell_other role v hb,
    by rw [s.storeCell_ram a v ha]⟩

theorem operandPair_devices (s : State) (sa da : Nat) (hs : s.kind sa = .device) (hd : s.kind da = .device)
    (hne : sa ≠ da) :
    (s.pairEvents sa da = [.read sa, .read da] ∨ s.pairEvents sa da = [.read da, .read sa]) ∧
      s.pairDst sa da = s.cellValue .dst da := by
  refine ⟨?_, State.pairDst_own fun h => hne h.2.1⟩
  rw [State.pairEvents_devices hs hd, if_neg fun h => hne h.1]
  split
  · exact .inl rfl
  · exact .inr rfl

theorem operandPair_sameDevice (s : State) (a : Nat) (h : s.kind a = .device) :
    (s.pairEvents a a = [.read a, .read a] ∧ s.pairDst a a = s.cellValue .dst a) ∨
      (s.pairEvents a a = [.read a] ∧ s.pairDst a a = s.cellValue .src a) := by
  cases ho : s.free.readsOnce with
  | true => exact .inr ⟨by simp [State.pairEvents_devices h h, ho], State.pairDst_shared h ho⟩
  | false => exact .inl ⟨by simp [State.pairEvents_devices h h, ho], State.pairDst_own (by simp [ho])⟩

/-- Settles O26, by the kinds of the two addresses; only a device register that is both operands can share one
read. -/
theorem operandPairReads : Obligations.OperandPairReads := by
  refine ⟨operandPair_devices, operandPair_sameDevice, fun s sa da hs hd => ?_, fun s sa da hd => ?_, fun s a =>
    ⟨State.readEvents_device, State.readEvents_ram⟩⟩
  · have hne : sa ≠ da := fun h => by rw [h, hd] at hs; cases hs
    exact ⟨by rw [State.pairEvents_src_ram hs, State.readEvents_device hd], State.pairDst_own fun h => hne h.2.1⟩
  · refine ⟨State.pairEvents_dst_ram hd, State.pairDst_own fun h => ?_, ?_⟩
    · rw [hd] at h; cases h.1
    · rw [State.cellValue_ram .src hd, State.cellValue_ram .dst hd]

end Sys2Proof.Machine
end

section
/-! PROOFS (30_encoding.md). The class of words that each answer of the decoder stands for, the rows of the opcode map
told apart, the step at a fetch that gives no instruction, and the assembler's LDR; then the statements of this family. -/

namespace Sys2Proof

/-! ## The rows of the opcode map -/

/-- How many low bits of the word the instruction's row leaves to its operands (R96: the zeros of the mask). -/
@[simp] def Instr.operandBits : Instr → Nat
  | .movl .. | .cmpl .. => 13
  | .ldr .. => 11
  | .mov .. | .cmp .. | .sub .. | .add .. | .and .. | .or .. | .xor .. | .addl .. | .subl .. | .bic .. | .bis ..
  | .btg .. | .btt .. | .jmp _ | .jsr _ | .jnz _ | .jz _ | .jns _ | .js _ | .jnc _ | .jc _ => 10
  | .mtpr .. | .mfpr .. => 8
  | .swap _ | .neg _ | .not _ | .shl _ | .shr _ | .shra _ | .rlc _ | .rrc _ | .adc _ | .sbc _ => 5
  | .sst _ | .cst _ => 4
  | .push _ | .pop _ => 3
  | .rtsc _ => 1
  | .tof | .tdc | .ijmp | .ijsr | .rts | .rti | .nop | .wait | .stop | .reset | .sksp => 0

theorem Instr.row_mask (i : Instr) : i.row.2 = BitVec.allOnes 16 <<< i.operandBits := by
  cases i <;> simp only [Instr.row, Instr.operandBits] <;> decide

/-- The word n lies in the instruction's row, said of numbers: a row is one aligned block of words. -/
@[simp] def InRow (n : Nat) (i : Instr) : Prop := n / 2 ^ i.operandBits * 2 ^ i.operandBits = i.row.1.toNat

theorem inRow_iff_mask (w : Word) (i : Instr) : InRow w.toNat i ↔ w &&& i.row.2 = i.row.1 := by
  have hand : w &&& i.row.2 = BitVec.ofNat 16 (w.toNat / 2 ^ i.operandBits * 2 ^ i.operandBits) := by
    rw [i.row_mask, ← and_mask, BitVec.ofNat_toNat, BitVec.setWidth_eq]
  have hlt : w.toNat / 2 ^ i.operandBits * 2 ^ i.operandBits < 2 ^ 16 :=
    (Nat.div_mul_le_self ..).trans_lt w.isLt
  rw [hand, InRow, ← BitVec.toNat_inj, BitVec.toNat_ofNat, Nat.mod_eq_of_lt hlt]

/-- One instruction of each row (R96), with some operands. -/
def oneOfEachRow : List Instr :=
  let o : Operand := ⟨.a, 0⟩
  [.mov o o, .cmp o o, .add o o, .sub o o, .and o o, .or o o, .xor o o, .movl o 0, .cmpl o 0, .addl o 0, .subl o 0,
    .bic o .low 0, .bis o .low 0, .btg o .low 0, .btt o .low 0, .swap o, .neg o, .not o, .shl o, .shr o, .shra o,
    .rlc o, .rrc o, .adc o, .sbc o, .ldr 0 0, .mtpr 0 o, .mfpr o 0, .push 0, .pop 0, .sst 0, .cst 0, .tof, .tdc,
    .jmp 0, .jsr 0, .jnz 0, .jz 0, .jns 0, .js 0, .jnc 0, .jc 0, .ijmp, .ijsr, .rts, .rtsc false, .rti, .nop, .wait,
    .stop, .reset, .sksp]

theorem Instr.row_mem (i : Instr) : i.row ∈ oneOfEachRow.map Instr.row := by
  cases i <;> simp only [Instr.row] <;> decide

/-- Two rows differ in a bit that both masks keep. -/
def Apart (r q : Word × Word) : Prop := r.1 &&& q.2 ≠ q.1 &&& r.2

theorem rows_pairwise_apart : (oneOfEachRow.map Instr.row).Pairwise Apart := by
  unfold Apart
  decide

/-- A word lies in one row at most. -/
theorem row_unique {w : Word} {i j : Instr} (hi : w &&& i.row.2 = i.row.1) (hj : w &&& j.row.2 = j.row.1) :
    i.row = j.row := by
  by_contra hne
  have hsymm : Std.Symm Apart := ⟨fun _ _ h => h.symm⟩
  have hapart : Apart i.row j.row := rows_pairwise_apart.forall i.row_mem j.row_mem hne
  refine hapart ?_
  rw [← hi, ← hj]
  ac_rfl

/-! ## The words that an answer of the decoder is for -/

/-- R97: the words Table 8 gives to no instruction; R98: the jump words with bits 11:10 not 00. -/
@[simp] def Rejects (n : Nat) : DecodeReject → Prop
  | .unassigned =>
    (0x0009 ≤ n ∧ n ≤ 0x000B) ∨ (0x0160 ≤ n ∧ n ≤ 0x017F) ∨ (0x0190 ≤ n ∧ n ≤ 0x01BF) ∨ (0x01D0 ≤ n ∧ n ≤ 0x01FF)
  | .reservedBits => 0x8000 ≤ n ∧ n / 1024 % 4 ≠ 0

/-- The word n is one that the answer is for. -/
@[simp] def Spells (n : Nat) : Except DecodeReject Instr → Prop
  | .ok i => InRow n i
  | .error e => Rejects n e

theorem Rejects.unique {n : Nat} {d e : DecodeReject} (hd : Rejects n d) (he : Rejects n e) : d = e := by
  cases d <;> cases e <;> simp at * <;> omega

theorem InRow.not_rejects {n : Nat} {i : Instr} (h : InRow n i) (e : DecodeReject) : ¬ Rejects n e := by
  cases e <;> cases i <;> simp [Instr.row] at * <;> omega

theorem toNat_extractLsb' (w : Word) (lo len : Nat) :
    (w.extractLsb' lo len).toNat = w.toNat / 2 ^ lo % 2 ^ len := by
  simpa using toNat_field w.toNat lo len w.isLt

/-! Each layer of the decoder: the number it branches on is a quotient of the word, which places the word in the row of
every instruction that it answers there. -/

theorem decodeControl_spells (w : Word) (h : w.toNat < 0x20) : Spells w.toNat (decodeControl w) := by
  have hk : (w.extractLsb' 0 5).toNat = w.toNat := by rw [toNat_extractLsb']; omega
  unfold decodeControl
  rw [hk]
  split
  case h_17 => split <;> simp [Instr.row] at * <;> omega -- PUSH and POP
  all_goals simp [Instr.row]; omega

theorem decodeOne_spells (w : Word) (h : w.toNat < 0x200) : Spells w.toNat (decodeOne w) := by
  have hk : (w.extractLsb' 5 4).toNat = w.toNat / 0x20 := by rw [toNat_extractLsb']; omega
  have hbit : w.getLsbD 4 = decide (w.toNat / 0x10 % 2 = 1) := by simpa using bit_eq w.toNat 4 (by decide)
  unfold decodeOne
  rw [hk, hbit]
  split
  case h_1 => exact decodeControl_spells w (by omega)
  case h_12 | h_13 => split <;> simp [Instr.row] at * <;> omega -- SST and CST
  all_goals simp [Instr.row] at *; omega

theorem decodeShort_spells (w : Word) (h : w.toNat < 0x400) : Spells w.toNat (decodeShort w) := by
  have hk : (w.extractLsb' 8 2).toNat = w.toNat / 0x100 := by rw [toNat_extractLsb']; omega
  unfold decodeShort
  rw [hk]
  split
  case h_3 => exact decodeOne_spells w (by simp at *; omega)
  all_goals simp [Instr.row]; omega

theorem decode_spells (w : Word) : Spells w.toNat (decode w) := by
  have hk : (w.extractLsb' 10 6).toNat = w.toNat / 0x400 := by rw [toNat_extractLsb']; omega
  unfold decode
  rw [hk]
  split
  case h_1 => exact decodeShort_spells w (by omega)
  case h_25 => -- MOVL, CMPL and the reserved words
    split
    · simp [Instr.row] at *; omega
    · split <;> simp [Instr.row] at * <;> omega
  all_goals simp [Instr.row]; omega

/-! ## The opcode map -/

theorem mem_row_of_decode {w : Word} {j : Instr} (h : decode w = .ok j) : w &&& j.row.2 = j.row.1 := by
  have hs := decode_spells w
  rw [h] at hs
  exact (inRow_iff_mask w j).1 hs

theorem decode_of_mem_row {w : Word} {i : Instr} (hi : w &&& i.row.2 = i.row.1) : ∃ j, decode w = .ok j := by
  have hs := decode_spells w
  cases hd : decode w with
  | ok j => exact ⟨j, rfl⟩
  | error e =>
    rw [hd] at hs
    exact absurd hs (((inRow_iff_mask w i).2 hi).not_rejects e)

/-- Settles O3: a word of a row is rejected for no reason, so it decodes, and what it decodes to has that row, since
no word lies in two. -/
theorem decodeFollowsOpcodeMap : Obligations.DecodeFollowsOpcodeMap := by
  intro w i
  constructor
  · intro hi
    obtain ⟨j, hj⟩ := decode_of_mem_row hi
    exact ⟨j, hj, row_unique (mem_row_of_decode hj) hi⟩
  · rintro ⟨j, hj, hrow⟩
    rw [← hrow]
    exact mem_row_of_decode hj

theorem decode_eq_error_iff (w : Word) (e : DecodeReject) : decode w = .error e ↔ Rejects w.toNat e := by
  have hs := decode_spells w
  refine ⟨fun h => by rwa [h] at hs, fun he => ?_⟩
  cases hd : decode w with
  | ok i => rw [hd] at hs; exact absurd he (InRow.not_rejects hs e)
  | error d => rw [hd] at hs; rw [Rejects.unique hs he]

end Sys2Proof

namespace Sys2Proof.Machine

/-! ## A fetch that gives no instruction -/

section
variable {s : State}

theorem fetchInstr_outside (hp : s.platform.pmemWords ≤ s.pc.toNat) :
    s.fetchInstr = .refused .fetchOutsideProgramMemory :=
  if_pos hp

theorem fetchInstr_notLoaded (hp : s.pc.toNat < s.platform.pmemWords) (hm : Memory.read s.pmem s.pc.toNat = none) :
    s.fetchInstr = .fault .programWordNotLoaded := by
  simp [State.fetchInstr, Nat.not_le.2 hp, hm]

theorem fetchInstr_unassigned {w : Word} (hp : s.pc.toNat < s.platform.pmemWords)
    (hm : Memory.read s.pmem s.pc.toNat = some w) (hd : decode w = .error .unassigned) :
    s.fetchInstr = .refused .unassignedWord := by
  simp [State.fetchInstr, Nat.not_le.2 hp, hm, hd]

theorem fetchInstr_reservedBits {w : Word} (hp : s.pc.toNat < s.platform.pmemWords)
    (hm : Memory.read s.pmem s.pc.toNat = some w) (hd : decode w = .error .reservedBits) :
    s.fetchInstr = .refused .reservedJumpBits := by
  simp [State.fetchInstr, Nat.not_le.2 hp, hm, hd]

theorem step_of_fetch_fault {f : Fault} (ha : s.accepted = none) (hr : s.run = .running)
    (hf : s.fetchInstr = .fault f) : step s = .fault f := by
  simp [step, ha, hr, runInstr, hf]

theorem step_of_fetch_refused {r : Refusal} (ha : s.accepted = none) (hr : s.run = .running)
    (hf : s.fetchInstr = .refused r) : step s = .refused r := by
  simp [step, ha, hr, runInstr, hf]

end

/-- Settles O4: the classes of words from `decode_eq_error_iff`, and a step stops where its fetch does. -/
theorem unassignedWordsAreRefused : Obligations.UnassignedWordsAreRefused := by
  refine ⟨fun w => ⟨decode_eq_error_iff w .unassigned, decode_eq_error_iff w .reservedBits⟩,
    fun s ha hr => ⟨fun hp => ?_, fun hp hm => ?_, fun w hp hm => ⟨fun hd => ?_, fun hd => ?_⟩⟩⟩
  · exact step_of_fetch_refused ha hr (fetchInstr_outside hp)
  · exact step_of_fetch_fault ha hr (fetchInstr_notLoaded hp hm)
  · exact step_of_fetch_refused ha hr (fetchInstr_unassigned hp hm hd)
  · exact step_of_fetch_refused ha hr (fetchInstr_reservedBits hp hm hd)

end Sys2Proof.Machine

namespace Sys2Proof

/-! ## The operand of LDR -/

theorem wf_ldr_segment {n : SvcReg} (hn : n.val < 4) (k : Byte) : Asm.wf (.ldr n (8 * k.toNat)) = true := by
  simpa [Asm.wf, hn] using k.isLt

theorem assemble_ldr_segment {n : SvcReg} (hn : n.val < 4) (k : Byte) :
    Asm.assemble (.ldr n (8 * k.toNat)) = some (.ldr n k) := by
  rw [Asm.assemble, if_pos (wf_ldr_segment hn k)]
  simp [hn]

theorem assemble_ldr_unaligned {n : SvcReg} {a : Nat} (hn : n.val < 4) (ha : a % 8 ≠ 0) :
    Asm.assemble (.ldr n a) = none :=
  if_neg (by simp [Asm.wf, hn, ha])

/-- Settles O6: the pseudo-instructions are always taken, so each is the row `Asm.assemble` names; the operand of LDR
decides whether it is. -/
theorem assemblerForms : Obligations.AssemblerForms :=
  ⟨fun _ => ⟨rfl, rfl, rfl⟩, fun _ => ⟨rfl, rfl⟩, fun _ _ => ⟨rfl, rfl, rfl, rfl, rfl, rfl, rfl, rfl⟩,
    fun _ k hn => assemble_ldr_segment hn k, fun _ _ hn ha => assemble_ldr_unaligned hn ha⟩

end Sys2Proof
end

section
/-! PROOFS (41_two_operand.md). The words of format F2, the byte and the flags that each operation of the ALU leaves
against R12 to R14 and R27, and, through the access patterns of R57, the statements of this family. -/

namespace Sys2Proof.Machine

/-! ## The words of format F2 (R82) -/

/-- Instruction bits 15:10, which `decode` branches on. -/
theorem opcode_eq {n k : Nat} (hn : n / 1024 = k) (hk : k < 64) :
    ((BitVec.ofNat 16 n).extractLsb' 10 6).toNat = k := by
  rw [toNat_field n 10 6 (by omega)]
  omega

/-- A word made of an opcode and two operand fields decodes to that opcode's instruction of those operands. -/
theorem encoded_F2 {mk : Operand → Operand → Instr} (k : Nat) (hk : k < 64) (dst src : Operand)
    (hdec : ∀ w : Word, (w.extractLsb' 10 6).toNat = k → decode w = .ok (mk (lowOperand w) (srcOperand w))) :
    Encoded (k * 1024 + src.bits.toNat * 32 + dst.bits.toNat) (mk dst src) := by
  have hd := dst.bits_lt
  have hs := src.bits_lt
  rw [Encoded, hdec _ (opcode_eq (by omega) hk), lowOperand_eq _ dst (by omega) (by omega),
    srcOperand_eq _ src (by omega) (by omega)]

/-! ## Results and flags -/

section
variable (a b r : Byte)

theorem add8_value : (add8 a b false).value = a + b := by
  simp [add8, BitVec.ofNat_add]

theorem sub8_value (rule : OfSubRule) : (sub8 rule a b false).value = a - b := by
  simp [sub8, sub_eq_add_neg, BitVec.ofInt_add, BitVec.ofInt_neg]

/-- Z and S of a result (R14), in the claims' terms. -/
theorem aluResult_zero_sign (c o d : Bool) :
    (aluResult r c o d).flags.zero = decide (r.toNat = 0) ∧
      (aluResult r c o d).flags.sign = decide (128 ≤ r.toNat) := by
  refine ⟨?_, getLsbD_seven r⟩
  rw [aluResult_zero, Bool.eq_iff_iff]
  simp [BitVec.toNat_eq]

/-- R27, row AND to SWAP: RS after logic8 is the logical result's. -/
theorem rsAfterLogic_logic8 (rs : Byte) : RsAfterLogic rs (withFlags rs (logic8 r).flags) r := by
  obtain ⟨hz, hs⟩ := aluResult_zero_sign r false false false
  unfold RsAfterLogic
  rw [← hz, ← hs]
  exact rsIs_withFlags rs (logic8 r).flags

/-- R27, row MOV: RS after move8 with the old flags is the moved value's. -/
theorem rsAfterMove_move8 (rs : Byte) : RsAfterMove rs (withFlags rs (move8 (flagsOf rs) r).flags) r := by
  obtain ⟨hz, hs⟩ := aluResult_zero_sign r (rs.getLsbD 0) false (rs.getLsbD 5)
  unfold RsAfterMove
  rw [← hz, ← hs]
  exact rsIs_withFlags rs (move8 (flagsOf rs) r).flags

end

/-! ## The instructions -/

/-- What AND, OR and XOR share: a bitwise operation on both operands with the logical flags (R115 to R117). -/
theorem combineCells_logic8 {s : State} {dst src : Operand} (op : Byte → Byte → Byte)
    (hs : s.kind (s.ea .src src) ≠ .absent) (hd : s.kind (s.ea .dst dst) ≠ .absent) :
    ∃ t, combineCells dst src (fun d v => logic8 (op d v)) s = .next t ∧
      Stores s t (s.pairEvents (s.ea .src src) (s.ea .dst dst)) (s.ea .dst dst)
        (op (s.pairDst (s.ea .src src) (s.ea .dst dst)) (s.cellValue .src (s.ea .src src))) ∧
      RsAfterLogic s.rs t.rs
        (op (s.pairDst (s.ea .src src) (s.ea .dst dst)) (s.cellValue .src (s.ea .src src))) ∧
      DataFrame s t := by
  obtain ⟨t, hx, hstore, hrs, hframe⟩ := combineCells_spec (fun d v => logic8 (op d v)) hs hd
  exact ⟨t, hx, hstore, hrs ▸ rsAfterLogic_logic8 _ s.rs, hframe⟩

/-- Settles O30: the `moveCell` pattern with the moved flags. -/
theorem movResult : Obligations.MovResult := by
  intro dst src s
  refine ⟨encoded_F2 1 (by decide) dst src fun w h => by simp only [decode, h], fun hs hd => ?_⟩
  obtain ⟨t, hx, hstore, hrs, hframe⟩ := moveCell_spec (fun v old => move8 old v) hs hd
  exact ⟨t, hx, hstore, hrs ▸ rsAfterMove_move8 _ s.rs, hframe⟩

/-- Settles O31: the `compareCells` pattern, which stores nothing, with the flags of the subtraction. -/
theorem cmpResult : Obligations.CmpResult := by
  intro dst src s
  refine ⟨encoded_F2 2 (by decide) dst src fun w h => by simp only [decode, h], fun hs hd => ?_⟩
  obtain ⟨t, hx, hstore, hrs, hframe⟩ := compareCells_spec (fun d v => sub8 s.platform.ofSubRule d v false) hs hd
  exact ⟨t, hx, hstore, hrs ▸ rsAfterSub_sub8 _ s.rs _ _ false, hframe⟩

/-- Settles O32: the `combineCells` pattern with the sum and its flags. -/
theorem addResult : Obligations.AddResult := by
  intro dst src s
  refine ⟨encoded_F2 4 (by decide) dst src fun w h => by simp only [decode, h], fun hs hd => ?_⟩
  obtain ⟨t, hx, hstore, hrs, hframe⟩ := combineCells_spec (fun d v => add8 d v false) hs hd
  rw [add8_value] at hstore
  exact ⟨t, hx, hstore, hrs ▸ rsAfterAdd_add8 s.rs _ _ false, hframe⟩

/-- Settles O33: the `combineCells` pattern with the difference and its flags. -/
theorem subResult : Obligations.SubResult := by
  intro dst src s
  refine ⟨encoded_F2 3 (by decide) dst src fun w h => by simp only [decode, h], fun hs hd => ?_⟩
  obtain ⟨t, hx, hstore, hrs, hframe⟩ := combineCells_spec (fun d v => sub8 s.platform.ofSubRule d v false) hs hd
  rw [sub8_value] at hstore
  exact ⟨t, hx, hstore, hrs ▸ rsAfterSub_sub8 _ s.rs _ _ false, hframe⟩

/-- Settles O34: each of the three is `combineCells_logic8` for its own bitwise operation. -/
theorem andOrXorResult : Obligations.AndOrXorResult := by
  intro dst src s
  refine ⟨encoded_F2 5 (by decide) dst src fun w h => by simp only [decode, h],
    encoded_F2 6 (by decide) dst src fun w h => by simp only [decode, h],
    encoded_F2 7 (by decide) dst src fun w h => by simp only [decode, h], fun hs hd i r hir => ?_⟩
  rcases hir with h | h | h <;> cases h
  · exact combineCells_logic8 (· &&& ·) hs hd
  · exact combineCells_logic8 (· ||| ·) hs hd
  · exact combineCells_logic8 (· ^^^ ·) hs hd

end Sys2Proof.Machine
end

section
/-! PROOFS (42_literal.md). The words of formats FL8, FL5 and FL4, the literals that R94 makes of their constants, and,
through the access patterns of R57, the statements of this family. -/

namespace Sys2Proof.Machine

/-! ## The words of formats FL8, FL5 and FL4 (R83 to R85) -/

/-! MOVL and CMPL have a 3-bit opcode, bits 15:13: the upper bits of the field that `decode` branches on. -/

theorem decode_movl {w : Word} (h : (w.extractLsb' 10 6).toNat / 8 = 2) :
    decode w = .ok (.movl (lowOperand w) (w.extractLsb' 5 8)) := by
  unfold decode
  split
  case h_25 => rw [if_pos (by omega)]
  all_goals omega

theorem decode_cmpl {w : Word} (h : (w.extractLsb' 10 6).toNat / 8 = 3) :
    decode w = .ok (.cmpl (lowOperand w) (w.extractLsb' 5 8)) := by
  unfold decode
  split
  case h_25 => rw [if_neg (by omega), if_pos (by omega)]
  all_goals omega

section
variable (k : Nat) (dst : Operand)

/-- A word made of bits 15:13, an 8-bit literal and an operand field decodes to the instruction of those bits. -/
theorem encoded_FL8 {mk : Operand → Byte → Instr} (hk : k < 8) (c : Byte)
    (hdec : ∀ w : Word, (w.extractLsb' 10 6).toNat / 8 = k → decode w = .ok (mk (lowOperand w) (w.extractLsb' 5 8))) :
    Encoded (k * 8192 + c.toNat * 32 + dst.bits.toNat) (mk dst c) := by
  have hd := dst.bits_lt
  have hc := c.isLt
  rw [Encoded, hdec _ (by rw [opcode_eq rfl (by omega)]; omega), lowOperand_eq _ dst (by omega) (by omega),
    field_eq _ 5 c (by omega) (by omega)]

/-- A word made of an opcode, a 5-bit literal and an operand field decodes to that opcode's instruction. -/
theorem encoded_FL5 {mk : Operand → BitVec 5 → Instr} (hk : k < 64) (c : BitVec 5)
    (hdec : ∀ w : Word, (w.extractLsb' 10 6).toNat = k → decode w = .ok (mk (lowOperand w) (w.extractLsb' 5 5))) :
    Encoded (k * 1024 + c.toNat * 32 + dst.bits.toNat) (mk dst c) := by
  have hd := dst.bits_lt
  have hc := c.isLt
  rw [Encoded, hdec _ (opcode_eq (by omega) hk), lowOperand_eq _ dst (by omega) (by omega),
    field_eq _ 5 c (by omega) (by omega)]

/-- A word made of an opcode, a place bit, a 4-bit literal and an operand field decodes to that opcode's instruction. -/
theorem encoded_FL4 {mk : Operand → Place → BitVec 4 → Instr} (hk : k < 64) (p : Place) (c : BitVec 4)
    (hdec : ∀ w : Word, (w.extractLsb' 10 6).toNat = k →
      decode w = .ok (mk (lowOperand w) (placeField w) (w.extractLsb' 5 4))) :
    Encoded (k * 1024 + p.bit * 512 + c.toNat * 32 + dst.bits.toNat) (mk dst p c) := by
  have hd := dst.bits_lt
  have hp := p.bit_lt
  have hc := c.isLt
  rw [Encoded, hdec _ (opcode_eq (by omega) hk), lowOperand_eq _ dst (by omega) (by omega),
    placeField_eq _ p (by omega), field_eq _ 5 c (by omega) (by omega)]

end

/-! ## The literals (R94) -/

theorem shortLiteral_eq (k : BitVec 5) : shortLiteral k = BitVec.ofNat 8 k.toNat :=
  (BitVec.ofNat_toNat 8 k).symm

theorem toNat_tetradLiteral (p : Place) (k : BitVec 4) :
    (tetradLiteral p k).toNat = if p = .low then k.toNat else k.toNat * 16 := by
  cases p with
  | low => exact (BitVec.toNat_append 0#4 k).trans (by simp)
  | high => exact (BitVec.toNat_append k 0#4).trans (by simp [Nat.shiftLeft_eq])

theorem eq_tetradLiteral {p : Place} {k : BitVec 4} {lit : Byte}
    (h : lit.toNat = if p = .low then k.toNat else k.toNat * 16) : lit = tetradLiteral p k :=
  BitVec.eq_of_toNat_eq (h.trans (toNat_tetradLiteral p k).symm)

/-! ## The instructions -/

/-- What BIC, BIS and BTG share: r, the operation's result on the old byte, is stored with the logical flags. -/
theorem readModifyWrite_logic8 {s : State} {dst : Operand} {r : Byte} (op : Byte → Byte)
    (hd : s.kind (s.ea .dst dst) ≠ .absent)
    (hr : ∀ j, j < 8 → r.getLsbD j = (op (s.cellValue .dst (s.ea .dst dst))).getLsbD j) :
    ∃ t, readModifyWrite dst (fun d _ => logic8 (op d)) s = .next t ∧
      Stores s t (s.readEvents (s.ea .dst dst)) (s.ea .dst dst) r ∧ RsAfterLogic s.rs t.rs r ∧ DataFrame s t := by
  obtain rfl : r = op (s.cellValue .dst (s.ea .dst dst)) := BitVec.eq_of_getLsbD_eq hr
  obtain ⟨t, hx, hstore, hrs, hframe⟩ := readModifyWrite_spec (fun d _ => logic8 (op d)) hd
  exact ⟨t, hx, hstore, hrs ▸ rsAfterLogic_logic8 _ s.rs, hframe⟩

/-- Settles O35: the `writeOnly` pattern, which reads nothing, with the moved flags. -/
theorem movlResult : Obligations.MovlResult := by
  intro dst k s
  refine ⟨encoded_FL8 2 dst (by decide) k fun _ => decode_movl, fun hd => ?_⟩
  obtain ⟨t, hx, hstore, hrs, hframe⟩ := writeOnly_spec (move8 s.flags k) hd
  exact ⟨t, hx, hstore, hrs ▸ rsAfterMove_move8 k s.rs, hframe⟩

/-- Settles O36: both are the `readTest` pattern, which stores nothing, CMPL with the flags of the subtraction and BTT
with the logical ones. -/
theorem cmplBttResults : Obligations.CmplBttResults := by
  refine ⟨fun dst k s => ?_, fun dst p k s => ?_⟩
  · refine ⟨encoded_FL8 3 dst (by decide) k fun _ => decode_cmpl, fun hd => ?_⟩
    obtain ⟨t, hx, hstore, hrs, hframe⟩ := readTest_spec (fun d => sub8 s.platform.ofSubRule d k false) hd
    exact ⟨t, hx, hstore, hrs ▸ rsAfterSub_sub8 _ s.rs _ k false, hframe⟩
  · refine ⟨encoded_FL4 13 dst (by decide) p k fun w h => by simp only [decode, h], fun hd lit hlit => ?_⟩
    obtain rfl := eq_tetradLiteral hlit
    obtain ⟨t, hx, hstore, hrs, hframe⟩ := readTest_spec (fun d => logic8 (d &&& tetradLiteral p k)) hd
    exact ⟨t, hx, hstore, hrs ▸ rsAfterLogic_logic8 _ s.rs, hframe⟩

/-- Settles O37: the `readModifyWrite` pattern with the sum and its flags. -/
theorem addlResult : Obligations.AddlResult := by
  intro dst k s
  refine ⟨encoded_FL5 12 dst (by decide) k fun w h => by simp only [decode, h], fun hd => ?_⟩
  rw [← shortLiteral_eq]
  obtain ⟨t, hx, hstore, hrs, hframe⟩ := readModifyWrite_spec (fun d _ => add8 d (shortLiteral k) false) hd
  rw [add8_value] at hstore
  exact ⟨t, hx, hstore, hrs ▸ rsAfterAdd_add8 s.rs _ _ false, hframe⟩

/-- Settles O38: the `readModifyWrite` pattern with the difference and its flags. -/
theorem sublResult : Obligations.SublResult := by
  intro dst k s
  refine ⟨encoded_FL5 11 dst (by decide) k fun w h => by simp only [decode, h], fun hd => ?_⟩
  rw [← shortLiteral_eq]
  obtain ⟨t, hx, hstore, hrs, hframe⟩ :=
    readModifyWrite_spec (fun d _ => sub8 s.platform.ofSubRule d (shortLiteral k) false) hd
  rw [sub8_value] at hstore
  exact ⟨t, hx, hstore, hrs ▸ rsAfterSub_sub8 _ s.rs _ _ false, hframe⟩

/-- Settles O39: each of the three is `readModifyWrite_logic8` for its own operation with the literal placed by p. -/
theorem bitLiteralResults : Obligations.BitLiteralResults := by
  intro dst p k s
  refine ⟨encoded_FL4 10 dst (by decide) p k fun w h => by simp only [decode, h],
    encoded_FL4 14 dst (by decide) p k fun w h => by simp only [decode, h],
    encoded_FL4 15 dst (by decide) p k fun w h => by simp only [decode, h], fun hd lit hlit i r hir => ?_⟩
  obtain rfl := eq_tetradLiteral hlit
  rcases hir with ⟨rfl, hr⟩ | ⟨rfl, hr⟩ | ⟨rfl, hr⟩
  · exact readModifyWrite_logic8 (· &&& ~~~tetradLiteral p k) hd fun j hj => by rw [hr j hj]; simp [hj]
  · exact readModifyWrite_logic8 (· ||| tetradLiteral p k) hd fun j hj => by rw [hr j hj, BitVec.getLsbD_or]
  · exact readModifyWrite_logic8 (· ^^^ tetradLiteral p k) hd fun j hj => by rw [hr j hj, BitVec.getLsbD_xor]

end Sys2Proof.Machine
end

section
/-! PROOFS (43_one_operand.md). The words of format F1, the byte that each operation of one operand leaves, bit by bit,
and, through the access pattern of R57, the statements of this family. -/

namespace Sys2Proof.Machine

/-! ## The words of format F1 (R86) -/

/-- A word below 0200h has bits 15:9 clear, so only its bits 8:0 are left to decide. -/
theorem decode_eq_decodeOne {n : Nat} (hn : n < 512) :
    decode (BitVec.ofNat 16 n) = decodeOne (BitVec.ofNat 16 n) := by
  have h9 := toNat_field n 8 2 (by omega)
  simp only [decode, opcode_eq (n := n) (k := 0) (by omega) (by decide), decodeShort]
  split
  · omega
  · omega
  · rfl

/-- A word made of bits 8:5 and an operand field decodes to the instruction of those bits. -/
theorem encoded_F1 {mk : Operand → Instr} (k : Nat) (hk : k < 16) (dst : Operand)
    (hdec : ∀ w : Word, (w.extractLsb' 5 4).toNat = k → decodeOne w = .ok (mk (lowOperand w))) :
    Encoded (k * 32 + dst.bits.toNat) (mk dst) := by
  have hd := dst.bits_lt
  have hfield : ((BitVec.ofNat 16 (k * 32 + dst.bits.toNat)).extractLsb' 5 4).toNat = k := by
    rw [toNat_field _ 5 4 (by omega)]
    omega
  rw [Encoded, decode_eq_decodeOne (by omega), hdec _ hfield, lowOperand_eq _ dst (by omega) (by omega)]

/-! ## Results and flags -/

/-- RS after an ALU result, Z and S read off the byte (R14). -/
theorem rsIs_aluResult (rs r : Byte) (c o d : Bool) :
    RsIs rs (withFlags rs (aluResult r c o d).flags) c (decide (r = 0)) (r.getLsbD 7) o d :=
  rsIs_withFlags rs (aluResult r c o d).flags

section
variable (v : Byte)

theorem getLsbD_swapTetrads {j : Nat} (hj : j < 4) :
    (swapTetrads v).getLsbD (j + 4) = v.getLsbD j ∧ (swapTetrads v).getLsbD j = v.getLsbD (j + 4) := by
  rw [swapTetrads, BitVec.getLsbD_append, BitVec.getLsbD_append, if_neg (by omega), if_pos hj]
  simp [hj, Nat.add_comm]

theorem getLsbD_xor_ones {j : Nat} (hj : j < 8) : (v ^^^ 0xFF).getLsbD j = !v.getLsbD j := by
  rw [show v ^^^ 0xFF = ~~~v from BitVec.xor_allOnes]
  simp [hj]

/-- OF of 0 - v under each value of OF_SUB_RULE (R152, D10). -/
theorem ofAfterSub_zero (rule : OfSubRule) : OfAfterSub rule 0 v false =
    if rule = .signedOverflow then decide (v = 0x80) else decide (1 ≤ v.toNat ∧ v.toNat < 0x80) := by
  have hv := v.isLt
  cases rule with
  | signedOverflow =>
    have h0 : (0 : Byte).toInt = 0 := rfl
    have h80 : v = 0x80 ↔ v.toNat = 128 := BitVec.toNat_inj.symm
    simp only [OfAfterSub, h0, toInt_byte v, h80, Bool.toNat_false, if_true, decide_eq_decide]
    split <;> omega
  | addStyle =>
    have hr : (-v).getLsbD 7 = decide (1 ≤ v.toNat ∧ v.toNat ≤ 128) := by
      rw [getLsbD_seven, BitVec.toNat_neg, decide_eq_decide]
      omega
    have hof : OfAfterSub .addStyle 0 v false = ((-v).getLsbD 7 && (v.getLsbD 7 ^^ (-v).getLsbD 7)) := by
      simp [OfAfterSub, BitVec.ofInt_neg]
    rw [hof, hr, getLsbD_seven, if_neg (by decide)]
    by_cases h : 128 ≤ v.toNat
    · rw [decide_eq_true h, Bool.true_xor, Bool.and_not_self, eq_comm, decide_eq_false_iff_not]
      omega
    · rw [decide_eq_false h, Bool.false_xor, Bool.and_self, decide_eq_decide]
      omega

/-- R152: RS after 0 - v, in the terms of v. -/
theorem rsIs_neg (rule : OfSubRule) (rs : Byte) :
    RsIs rs (withFlags rs (sub8 rule 0 v false).flags) (decide (v ≠ 0)) (decide (v = 0)) ((-v).getLsbD 7)
      (if rule = .signedOverflow then decide (v = 0x80) else decide (1 ≤ v.toNat ∧ v.toNat < 0x80))
      (decide (v.toNat % 16 ≠ 0)) := by
  have hv := v.isLt
  have hz : v = 0 ↔ v.toNat = 0 := BitVec.toNat_inj.symm
  have h := rsAfterSub_sub8 rule rs 0 v false
  unfold RsAfterSub at h
  rw [ofAfterSub_zero, show (0 : Byte).toNat = 0 from rfl, Bool.toNat_false] at h
  convert h using 1
  · rw [decide_eq_decide, ne_eq, hz]
    omega
  · rw [decide_eq_decide, hz]
    omega
  · rw [getLsbD_seven, BitVec.toNat_neg, decide_eq_decide]
    omega
  · rw [decide_eq_decide]
    omega

theorem neg_value (rule : OfSubRule) :
    (sub8 rule 0 v false).value = BitVec.ofNat 8 ((256 - v.toNat) % 256) := by
  rw [sub8_value]
  apply BitVec.eq_of_toNat_eq
  simp

theorem add8_zero_value (c : Bool) : (add8 v 0 c).value = if c then v + 1 else v := by
  cases c with
  | false => simp [add8_value]
  | true => simp [add8, BitVec.ofNat_add]

theorem sub8_zero_value (rule : OfSubRule) (c : Bool) : (sub8 rule v 0 c).value = if c then v - 1 else v := by
  cases c with
  | false => simp [sub8_value]
  | true => simp [sub8, sub_eq_add_neg, BitVec.ofInt_add, BitVec.ofInt_neg]

/-- The byte after SHL and RLC, bit by bit: the bit that enters, and above it the old bits. -/
theorem getLsbD_shiftLeft8_zero (b : Bool) : (shiftLeft8 v b).value.getLsbD 0 = b :=
  getLsbD_putBit _ 0 0 b (by decide)

theorem getLsbD_shiftLeft8_succ (b : Bool) {j : Nat} (hj : j < 7) :
    (shiftLeft8 v b).value.getLsbD (j + 1) = v.getLsbD j := by
  rw [shiftLeft8, aluResult_value, getLsbD_putBit _ 0 _ _ (by decide), if_neg j.succ_ne_zero, BitVec.getLsbD_shiftLeft]
  simp [show j + 1 < 8 by omega]

/-- The byte after SHR, SHRA and RRC, bit by bit. -/
theorem getLsbD_shiftRight8 (b : Bool) (j : Nat) :
    (shiftRight8 v b).value.getLsbD j = if j = 7 then b else v.getLsbD (j + 1) := by
  simp [shiftRight8, getLsbD_putBit, Nat.add_comm]

/-- R154, R157: RS after a left shift, S being the old bit 6. -/
theorem rsIs_shiftLeft8 (rs : Byte) (b : Bool) :
    RsIs rs (withFlags rs (shiftLeft8 v b).flags) (v.getLsbD 7) (decide ((shiftLeft8 v b).value = 0))
      (v.getLsbD 6) (v.getLsbD 7 != v.getLsbD 6) false := by
  have h := rsIs_aluResult rs (shiftLeft8 v b).value (v.getLsbD 7) (v.getLsbD 7 ^^ v.getLsbD 6) false
  rwa [getLsbD_shiftLeft8_succ v b (by decide : 6 < 7)] at h

/-- R155, R156, R158: RS after a right shift, S being the bit that enters. -/
theorem rsIs_shiftRight8 (rs : Byte) (b : Bool) :
    RsIs rs (withFlags rs (shiftRight8 v b).flags) (v.getLsbD 0) (decide ((shiftRight8 v b).value = 0))
      b false false := by
  have h := rsIs_aluResult rs (shiftRight8 v b).value (v.getLsbD 0) false false
  rwa [getLsbD_shiftRight8, if_pos rfl] at h

end

/-! ## The instructions -/

/-- What SHL and RLC share: the byte moved left with the flags of that shift. -/
theorem readModifyWrite_shiftLeft8 {s : State} {dst : Operand} {v : Byte} (enter : Flags → Bool)
    (hd : s.kind (s.ea .dst dst) ≠ .absent) (hv : v = s.cellValue .dst (s.ea .dst dst)) :
    ∃ t r, readModifyWrite dst (fun d old => shiftLeft8 d (enter old)) s = .next t ∧
      (∀ j, j < 7 → r.getLsbD (j + 1) = v.getLsbD j) ∧ r.getLsbD 0 = enter s.flags ∧
      Stores s t (s.readEvents (s.ea .dst dst)) (s.ea .dst dst) r ∧
      RsIs s.rs t.rs (v.getLsbD 7) (decide (r = 0)) (v.getLsbD 6) (v.getLsbD 7 != v.getLsbD 6) false ∧
      DataFrame s t := by
  obtain ⟨t, hx, hstore, hrs, hframe⟩ := readModifyWrite_spec (fun d old => shiftLeft8 d (enter old)) hd
  rw [← hv] at hstore hrs
  exact ⟨t, _, hx, fun _ hj => getLsbD_shiftLeft8_succ v _ hj, getLsbD_shiftLeft8_zero v _, hstore,
    hrs ▸ rsIs_shiftLeft8 v s.rs _, hframe⟩

/-- What SHR, SHRA and RRC share: the byte moved right with the flags of that shift. -/
theorem readModifyWrite_shiftRight8 {s : State} {dst : Operand} {v : Byte} (enter : Byte → Flags → Bool)
    (hd : s.kind (s.ea .dst dst) ≠ .absent) (hv : v = s.cellValue .dst (s.ea .dst dst)) :
    ∃ t r, readModifyWrite dst (fun d old => shiftRight8 d (enter d old)) s = .next t ∧
      (∀ j, j < 7 → r.getLsbD j = v.getLsbD (j + 1)) ∧ r.getLsbD 7 = enter v s.flags ∧
      Stores s t (s.readEvents (s.ea .dst dst)) (s.ea .dst dst) r ∧
      RsIs s.rs t.rs (v.getLsbD 0) (decide (r = 0)) (enter v s.flags) false false ∧ DataFrame s t := by
  obtain ⟨t, hx, hstore, hrs, hframe⟩ := readModifyWrite_spec (fun d old => shiftRight8 d (enter d old)) hd
  rw [← hv] at hstore hrs
  exact ⟨t, _, hx, fun j hj => by rw [getLsbD_shiftRight8, if_neg (by omega)], getLsbD_shiftRight8 v _ 7, hstore,
    hrs ▸ rsIs_shiftRight8 v s.rs _, hframe⟩

/-- Settles O40: SWAP is `readModifyWrite_logic8` with the tetrads exchanged, NOT the same pattern with the moved
flags, which keep C and DC. -/
theorem swapNotResult : Obligations.SwapNotResult := by
  intro dst s
  refine ⟨encoded_F1 1 (by decide) dst fun w h => by simp only [decodeOne, h],
    encoded_F1 3 (by decide) dst fun w h => by simp only [decodeOne, h], fun hd => ⟨?_, ?_⟩⟩
  · obtain ⟨t, hx, h⟩ := readModifyWrite_logic8 swapTetrads hd fun _ _ => rfl
    exact ⟨t, _, hx, fun _ hj => getLsbD_swapTetrads _ hj, h⟩
  · obtain ⟨t, hx, hstore, hrs, hframe⟩ := readModifyWrite_spec (fun v old => move8 old (v ^^^ 0xFF)) hd
    exact ⟨t, _, hx, fun _ hj => getLsbD_xor_ones _ hj, hstore, hrs ▸ rsAfterMove_move8 _ s.rs, hframe⟩

/-- Settles O41: the `readModifyWrite` pattern with 0 - dst and its flags. -/
theorem negResult : Obligations.NegResult := by
  intro dst s
  refine ⟨encoded_F1 2 (by decide) dst fun w h => by simp only [decodeOne, h], fun hd v hv => ?_⟩
  obtain ⟨t, hx, hstore, hrs, hframe⟩ :=
    readModifyWrite_spec (fun v _ => sub8 s.platform.ofSubRule 0 v false) hd
  rw [← hv] at hstore hrs
  rw [neg_value] at hstore
  exact ⟨t, hx, hstore, hrs ▸ rsIs_neg v _ s.rs, hframe⟩

/-- Settles O42: both are `readModifyWrite_shiftLeft8`, with 0 or the old C entering. -/
theorem shiftLeftResults : Obligations.ShiftLeftResults := by
  intro dst s
  refine ⟨encoded_F1 4 (by decide) dst fun w h => by simp only [decodeOne, h],
    encoded_F1 7 (by decide) dst fun w h => by simp only [decodeOne, h], fun hd i inBit hi v hv => ?_⟩
  rcases hi with h | h <;> cases h
  · exact readModifyWrite_shiftLeft8 (fun _ => false) hd hv
  · exact readModifyWrite_shiftLeft8 Flags.carry hd hv

/-- Settles O43: each of the three is `readModifyWrite_shiftRight8`, with 0, the old bit 7 or the old C entering. -/
theorem shiftRightResults : Obligations.ShiftRightResults := by
  intro dst s
  refine ⟨encoded_F1 5 (by decide) dst fun w h => by simp only [decodeOne, h],
    encoded_F1 6 (by decide) dst fun w h => by simp only [decodeOne, h],
    encoded_F1 8 (by decide) dst fun w h => by simp only [decodeOne, h], fun hd v hv i inBit hi => ?_⟩
  rcases hi with h | h | h <;> cases h
  · exact readModifyWrite_shiftRight8 (fun _ _ => false) hd hv
  · exact readModifyWrite_shiftRight8 (fun d _ => d.getLsbD 7) hd hv
  · exact readModifyWrite_shiftRight8 (fun _ old => old.carry) hd hv

/-- Settles O44: the `readModifyWrite` pattern with the sum or the difference of dst, 0 and the old C. -/
theorem adcSbcResult : Obligations.AdcSbcResult := by
  intro dst s
  refine ⟨encoded_F1 9 (by decide) dst fun w h => by simp only [decodeOne, h],
    encoded_F1 10 (by decide) dst fun w h => by simp only [decodeOne, h], fun hd v hv => ⟨?_, ?_⟩⟩
  · obtain ⟨t, hx, hstore, hrs, hframe⟩ := readModifyWrite_spec (fun v old => add8 v 0 old.carry) hd
    rw [← hv] at hstore hrs
    rw [add8_zero_value] at hstore
    exact ⟨t, hx, hstore, hrs ▸ rsAfterAdd_add8 s.rs v 0 _, hframe⟩
  · obtain ⟨t, hx, hstore, hrs, hframe⟩ :=
      readModifyWrite_spec (fun v old => sub8 s.platform.ofSubRule v 0 old.carry) hd
    rw [← hv] at hstore hrs
    rw [sub8_zero_value] at hstore
    exact ⟨t, hx, hstore, hrs ▸ rsAfterSub_sub8 _ s.rs v 0 _, hframe⟩

end Sys2Proof.Machine
end

section
/-! PROOFS (44_service_registers.md). The words of formats FLDR, FPR, FSTK and FMSK, a service register written and
read, the data stack at its limits, and RS under a mask; then the statements of this family. -/

namespace Sys2Proof.Machine

/-! ## The words (R87 to R90) -/

/-- A field of a word that names a service register. -/
theorem svcField_eq (n lo : Nat) (r : SvcReg) (h : n < 65536) (hr : n / 2 ^ lo % 8 = r.val) :
    ((BitVec.ofNat 16 n).extractLsb' lo 3).toFin = r :=
  congrArg BitVec.toFin (field_eq (len := 3) n lo (BitVec.ofFin r) h hr)

/-- LDR has a 5-bit opcode, bits 15:11: the upper bits of the field that `decode` branches on. -/
theorem decode_ldr {w : Word} (h : (w.extractLsb' 10 6).toNat / 2 = 4) :
    decode w = .ok (.ldr (w.extractLsb' 0 3).toFin (w.extractLsb' 3 8)) := by
  obtain h8 | h9 : (w.extractLsb' 10 6).toNat = 8 ∨ (w.extractLsb' 10 6).toNat = 9 := by omega
  · simp only [decode, h8]
  · simp only [decode, h9]

theorem encoded_ldr (r : SvcReg) (k : Byte) : Encoded (0x2000 + (k.toNat * 8 + r.val)) (.ldr r k) := by
  have hk := k.isLt
  have hr := r.isLt
  rw [Encoded, decode_ldr (by rw [opcode_eq rfl (by omega)]; omega), svcField_eq _ 0 r (by omega) (by omega),
    field_eq _ 3 k (by omega) (by omega)]

/-- A word below 0400h has bits 15:10 clear. -/
theorem decode_eq_decodeShort {n : Nat} (hn : n < 1024) :
    decode (BitVec.ofNat 16 n) = decodeShort (BitVec.ofNat 16 n) := by
  simp only [decode, opcode_eq (n := n) (k := 0) (by omega) (by decide)]

/-- A word made of bits 9:8, a register number and an operand field decodes to the instruction of those bits. -/
theorem encoded_FPR {mk : SvcReg → Operand → Instr} (k : Nat) (hk : k < 4) (r : SvcReg) (o : Operand)
    (hdec : ∀ w : Word, (w.extractLsb' 8 2).toNat = k →
      decodeShort w = .ok (mk (w.extractLsb' 5 3).toFin (lowOperand w))) :
    Encoded (k * 256 + r.val * 32 + o.bits.toNat) (mk r o) := by
  have hr := r.isLt
  have ho := o.bits_lt
  have hfield : ((BitVec.ofNat 16 (k * 256 + r.val * 32 + o.bits.toNat)).extractLsb' 8 2).toNat = k := by
    rw [toNat_field _ 8 2 (by omega)]
    omega
  rw [Encoded, decode_eq_decodeShort (by omega), hdec _ hfield,
    svcField_eq _ 5 r (by omega) (by omega), lowOperand_eq _ o (by omega) (by omega)]

/-- Above the control instructions stand PUSH and POP, told apart by bit 3. -/
theorem decodeControl_stack {w : Word} (h : 16 ≤ (w.extractLsb' 0 5).toNat) :
    decodeControl w = if (w.extractLsb' 0 5).toNat < 0x18 then .ok (.push (w.extractLsb' 0 3).toFin)
      else .ok (.pop (w.extractLsb' 0 3).toFin) := by
  unfold decodeControl
  split
  case h_17 => rfl
  all_goals omega

theorem decode_stack {n : Nat} (h16 : 16 ≤ n) (h32 : n < 32) :
    decode (BitVec.ofNat 16 n) = if n < 0x18 then .ok (.push ((BitVec.ofNat 16 n).extractLsb' 0 3).toFin)
      else .ok (.pop ((BitVec.ofNat 16 n).extractLsb' 0 3).toFin) := by
  have h8 : ((BitVec.ofNat 16 n).extractLsb' 5 4).toNat = 0 := by rw [toNat_field _ 5 4 (by omega)]; omega
  have hk : ((BitVec.ofNat 16 n).extractLsb' 0 5).toNat = n := by rw [toNat_field _ 0 5 (by omega)]; omega
  have hone : decodeOne (BitVec.ofNat 16 n) = decodeControl (BitVec.ofNat 16 n) := by simp only [decodeOne, h8]
  rw [decode_eq_decodeOne (by omega), hone, decodeControl_stack (by omega), hk]

theorem encoded_push (r : SvcReg) : Encoded (0x0010 + r.val) (.push r) := by
  have hr := r.isLt
  rw [Encoded, decode_stack (by omega) (by omega), if_pos (by omega), svcField_eq _ 0 r (by omega) (by omega)]

theorem encoded_pop (r : SvcReg) : Encoded (0x0018 + r.val) (.pop r) := by
  have hr := r.isLt
  rw [Encoded, decode_stack (by omega) (by omega), if_neg (by omega), svcField_eq _ 0 r (by omega) (by omega)]

/-- A word made of bits 8:5, a clear bit 4 and a mask decodes to the instruction of those bits. -/
theorem encoded_FMSK {mk : BitVec 4 → Instr} (k : Nat) (hk : k < 16) (m : BitVec 4)
    (hdec : ∀ w : Word, (w.extractLsb' 5 4).toNat = k → w.getLsbD 4 = false →
      decodeOne w = .ok (mk (w.extractLsb' 0 4))) :
    Encoded (k * 32 + m.toNat) (mk m) := by
  have hm := m.isLt
  have hfield : ((BitVec.ofNat 16 (k * 32 + m.toNat)).extractLsb' 5 4).toNat = k := by
    rw [toNat_field _ 5 4 (by omega)]
    omega
  have hbit : (BitVec.ofNat 16 (k * 32 + m.toNat)).getLsbD 4 = false := by
    rw [bit_eq _ 4 (by decide), decide_eq_false_iff_not]
    omega
  rw [Encoded, decode_eq_decodeOne (by omega), hdec _ hfield hbit, field_eq _ 0 m (by omega) (by omega)]

/-! ## Service registers -/

section
variable (s : State) (n : SvcReg)

theorem State.get_writeSr_same (v : Byte) : (s.writeSr n v).sr.get n = (v &&& s.platform.srMask.get n) :=
  (s.get_writeSr n n v).trans (if_pos rfl)

theorem State.get_writeSr_other (v : Byte) {m : SvcReg} (h : m ≠ n) : (s.writeSr n v).sr.get m = s.sr.get m :=
  (s.get_writeSr n m v).trans (if_neg h)

/-- The implemented bits of a service register read as they are; the others are open (D4; log entry 16). -/
theorem State.getLsbD_readSr {j : Nat} (h : (s.platform.srMask.get n).getLsbD j = true) :
    (s.readSr n).getLsbD j = (s.sr.get n).getLsbD j := by
  simp only [State.readSr]
  split
  · rfl
  · simp [h]

/-- MFPR is the `writeOnly` pattern with the flags that RS has (R173: RS unchanged). -/
theorem execMfpr_eq_writeOnly (dst : Operand) :
    execMfpr dst n s = writeOnly dst { value := s.readSr n, flags := s.flags } s := by
  have hflags (a : Nat) (v : Byte) : (s.storeCell a v).setFlags s.flags = s.storeCell a v := by
    rw [State.setFlags, State.storeCell_rs, State.flags, withFlags_flagsOf, ← s.storeCell_rs a v]
    rfl
  simp only [execMfpr, writeOnly, hflags]

end

/-! ## The data stack at its limits (U6; log entry 9) -/

section
variable {s : State}

theorem State.dpush_full (v : Byte) (h : s.dsp = 15) :
    s.dpush v = { s with stackErr := true, dsp := s.free.dsp,
                         dstack := s.dstack.set s.dsp.val s.free.dataCell s.dsp.isLt } :=
  if_pos h

theorem State.dpop_empty (h : s.dsp = 0) :
    s.dpop = (s.free.popped, { s with stackErr := true, dsp := s.free.dsp }) :=
  if_pos h

end

/-! ## RS under a mask, and Z alone -/

section
variable (rs : Byte) (m : BitVec 4) (j : Nat)

theorem getLsbD_statusMask_lo (hj : j < 4) : (0#4 ++ m : Byte).getLsbD j = m.getLsbD j := by
  rw [BitVec.getLsbD_append, if_pos hj]

/-- R176: bits 3:0 under the mask set. -/
theorem getLsbD_setMask :
    (rs ||| (0#4 ++ m)).getLsbD j = if j < 4 ∧ m.getLsbD j then true else rs.getLsbD j := by
  by_cases hj : j < 4
  · rw [BitVec.getLsbD_or, getLsbD_statusMask_lo m j hj]
    cases m.getLsbD j <;> simp [hj]
  · rw [getLsbD_setMask_hi rs m (Nat.not_lt.1 hj), if_neg fun h => hj h.1]

/-- R177: bits 3:0 under the mask cleared. -/
theorem getLsbD_clearMask :
    (rs &&& ~~~(0#4 ++ m)).getLsbD j = if j < 4 ∧ m.getLsbD j then false else rs.getLsbD j := by
  by_cases hj : j < 4
  · rw [BitVec.getLsbD_and, BitVec.getLsbD_not, getLsbD_statusMask_lo m j hj]
    cases m.getLsbD j <;> simp [hj, show j < 8 by omega]
  · rw [getLsbD_clearMask_hi rs m (Nat.not_lt.1 hj), if_neg fun h => hj h.1]

/-- R178, R179: RS written back with another Z. -/
theorem getLsbD_withFlags_zero (z : Bool) :
    (withFlags rs { flagsOf rs with zero := z }).getLsbD j = if j = 1 then z else rs.getLsbD j := by
  rw [getLsbD_withFlags]
  by_cases hj : j = 1
  · simp [hj]
  · have hrs := getLsbD_withFlags rs (flagsOf rs) j
    rw [withFlags_flagsOf, if_neg hj] at hrs
    rw [if_neg hj, if_neg hj]
    exact hrs.symm

end

/-! ## The instructions -/

/-- Settles O47: the `writeOnly` pattern with the register read and the flags kept (`execMfpr_eq_writeOnly`). -/
theorem mfprResult : Obligations.MfprResult := by
  intro dst n s
  refine ⟨encoded_FPR (mk := fun r o => .mfpr o r) 3 (by decide) n dst fun w h => by simp only [decodeShort, h],
    fun hd => ?_⟩
  obtain ⟨t, hx, hstore, hrs, hframe⟩ := writeOnly_spec { value := s.readSr n, flags := s.flags } hd
  exact ⟨t, s.readSr n, (execMfpr_eq_writeOnly s n dst).trans hx, fun _ _ => s.getLsbD_readSr n, hstore,
    hrs.trans (withFlags_flagsOf s.rs), hframe⟩

/-- Settles O48: a push with room (`dpush_ok`) and at DSP = 15 (`dpush_full`), then pc. -/
theorem pushResult : Obligations.PushResult := by
  refine fun n s => ⟨encoded_push n, fun hd => ?_, fun hd => ?_⟩
  · refine ⟨(s.dpush (s.readSr n)).advance, s.readSr n, rfl, fun _ _ => s.getLsbD_readSr n, s.dpush_get _ hd,
      fun _ hk => s.dpush_other _ hk, s.dpush_dsp_val _ hd, ?_⟩
    rw [s.dpush_ok _ hd]
    rfl
  · refine ⟨(s.dpush (s.readSr n)).advance, rfl, (s.dpush_stackErr _).trans (by simp [hd]),
      fun _ hk => s.dpush_other _ hk, ?_⟩
    rw [s.dpush_full _ hd]
    rfl

/-- Settles O49: a pop above DSP = 0 (`dpop_ok`) and at it (`dpop_empty`), then the write of the register. -/
theorem popResult : Obligations.PopResult := by
  refine fun n s => ⟨encoded_pop n, fun hd => ?_, fun hd => ?_⟩
  · refine ⟨(s.dpop.2.writeSr n s.dpop.1).advance, rfl, s.dpop_dsp_val hd, ?_⟩
    rw [s.dpop_ok hd]
    exact ⟨State.get_writeSr_same _ n _, fun _ hm => State.get_writeSr_other _ n _ hm, rfl⟩
  · refine ⟨(s.dpop.2.writeSr n s.dpop.1).advance, rfl, ?_⟩
    rw [s.dpop_empty hd]
    exact ⟨rfl, fun _ hm => State.get_writeSr_other _ n _ hm, rfl⟩

/-- Settles O45: a write of the service register, then pc. -/
theorem ldrResult : Obligations.LdrResult := fun n k s =>
  ⟨encoded_ldr n k, (s.writeSr n k).advance, rfl, s.get_writeSr_same n k, fun _ => s.get_writeSr_other n k,
    rfl, rfl⟩

/-- Settles O46: the device read logged, then a write of the service register with the byte read before it. -/
theorem mtprResult : Obligations.MtprResult := by
  intro n src s
  refine ⟨encoded_FPR 2 (by decide) n src fun w h => by simp only [decodeShort, h], fun hs => ?_⟩
  exact ⟨_, if_pos (State.present_iff.2 hs), State.get_writeSr_same _ n _, fun _ => State.get_writeSr_other _ n _,
    rfl, rfl, rfl⟩

/-- Settles O50: the words of format FMSK, and RS bit by bit (`getLsbD_setMask`, `getLsbD_clearMask`). -/
theorem sstCstResult : Obligations.SstCstResult := fun m s =>
  ⟨encoded_FMSK 12 (by decide) m fun w h h4 => by simp only [decodeOne, h, h4, Bool.false_eq_true, if_false],
    encoded_FMSK 14 (by decide) m fun w h h4 => by simp only [decodeOne, h, h4, Bool.false_eq_true, if_false],
    ⟨_, rfl, rfl, getLsbD_setMask s.rs m⟩, ⟨_, rfl, rfl, getLsbD_clearMask s.rs m⟩⟩

/-- Settles O51: the flags written back as they were, but for Z (`getLsbD_withFlags_zero`). -/
theorem tofTdcResult : Obligations.TofTdcResult :=
  ⟨rfl, rfl, fun s => ⟨⟨_, rfl, rfl, fun j => getLsbD_withFlags_zero s.rs j _⟩,
    ⟨_, rfl, rfl, fun j => getLsbD_withFlags_zero s.rs j _⟩⟩⟩

end Sys2Proof.Machine
end

section
/-! PROOFS (45_control_transfer.md). The words of format FJ, the command stack at its limits, what calls and returns do
to the state, and the states in which a run is over; then the statements of this family. -/

namespace Sys2Proof.Machine

/-! ## The words of format FJ (R91) -/

/-- A word made of an opcode and a 10-bit address decodes to that opcode's instruction of the address. -/
theorem encoded_FJ {mk : PAddr → Instr} (k : Nat) (hk : k < 64) (a : PAddr)
    (hdec : ∀ w : Word, (w.extractLsb' 10 6).toNat = k → decode w = .ok (mk (w.extractLsb' 0 10))) :
    Encoded (k * 1024 + a.toNat) (mk a) := by
  have ha := a.isLt
  rw [Encoded, hdec _ (opcode_eq (by omega) hk), field_eq _ 0 a (by omega) (by omega)]

/-! ## Jumps -/

/-- A conditional jump moves pc alone, to the address exactly when its condition holds (R190). -/
theorem State.branchIf_eq (s : State) (a : PAddr) {c : Bool} {p : Prop} [Decidable p] (h : c = true ↔ p) :
    s.branchIf c a = { s with pc := if p then a else s.pc + 1 } := by
  by_cases hp : p
  · rw [State.branchIf, if_pos (h.2 hp), if_pos hp]
    rfl
  · rw [State.branchIf, if_neg fun hc => hp (h.1 hc), if_neg hp]
    rfl

/-- Settles O52: the words of format FJ, and each conditional jump is `branchIf` on its bit of RS or the bit's
complement (`branchIf_eq`). -/
theorem jumpResults : Obligations.JumpResults := by
  refine fun a s => ⟨encoded_FJ 32 (by decide) a fun w h => by simp only [decode, h],
    encoded_FJ 40 (by decide) a fun w h => by simp only [decode, h],
    encoded_FJ 44 (by decide) a fun w h => by simp only [decode, h],
    encoded_FJ 48 (by decide) a fun w h => by simp only [decode, h],
    encoded_FJ 52 (by decide) a fun w h => by simp only [decode, h],
    encoded_FJ 56 (by decide) a fun w h => by simp only [decode, h],
    encoded_FJ 60 (by decide) a fun w h => by simp only [decode, h], rfl, ?_⟩
  have jumpsIfSet (b : Nat) : s.branchIf (s.rs.getLsbD b) a =
      { s with pc := if s.rs.getLsbD b = true then a else s.pc + 1 } := s.branchIf_eq a Iff.rfl
  have jumpsIfClear (b : Nat) : s.branchIf (!s.rs.getLsbD b) a =
      { s with pc := if s.rs.getLsbD b = false then a else s.pc + 1 } := s.branchIf_eq a (by simp)
  rintro i b want (h | h | h | h | h | h) <;> cases h
  · exact congrArg _ (jumpsIfSet 1)
  · exact congrArg _ (jumpsIfClear 1)
  · exact congrArg _ (jumpsIfSet 2)
  · exact congrArg _ (jumpsIfClear 2)
  · exact congrArg _ (jumpsIfSet 0)
  · exact congrArg _ (jumpsIfClear 0)

/-- Settles O54: IJMP writes pc alone, and IR1 is a function of the service registers (log entry 8). -/
theorem ijmpResult : Obligations.IjmpResult := ⟨rfl, fun _ => ⟨_, rfl, rfl, rfl⟩⟩

/-! ## Calls and returns, at the limits of the command stack too (U6; log entry 9) -/

section
variable {s : State}

theorem State.ipush_full (a : PAddr) (h : s.isp = 7) :
    s.ipush a = { s with stackErr := true, isp := s.free.isp,
                         istack := s.istack.set s.isp.val s.free.retCell s.isp.isLt } :=
  if_pos h

theorem State.ipop_empty (h : s.isp = 0) : s.ipop = (s.free.retAddr, { s with stackErr := true, isp := s.free.isp }) :=
  if_pos h

/-- Below ISP = 7 a call takes its jump (R192). -/
theorem State.call_ok (a : PAddr) (h : s.isp ≠ 7) : s.call a = (s.ipush (s.pc + 1)).setPc a := by
  simp [State.call, h]

/-- At ISP = 7 it is open whether a call takes its jump. -/
theorem State.call_full (a : PAddr) (h : s.isp = 7) :
    s.call a = (s.ipush (s.pc + 1)).setPc (if s.free.jumps then a else s.pc + 1) := by
  cases hj : s.free.jumps <;> simp [State.call, h, hj]

/-- A return with an address on the stack: pc from the cell that the pointer falls to. -/
theorem State.ipop_fst (h : s.isp ≠ 0) : s.ipop.1 = s.istack.get s.ipop.2.isp := by
  rw [s.ipop_ok h]

theorem State.dpop_fst (h : s.dsp ≠ 0) : s.dpop.1 = s.dstack.get s.dpop.2.dsp := by
  rw [s.dpop_ok h]

theorem State.returnFromInterrupt_pc (h : s.isp ≠ 0) :
    s.returnFromInterrupt.pc = s.istack.get s.returnFromInterrupt.isp := by
  simpa [State.returnFromInterrupt] using s.ipop_fst h

theorem State.returnFromInterrupt_rs (h : s.dsp ≠ 0) :
    s.returnFromInterrupt.rs = s.dstack.get s.returnFromInterrupt.dsp := by
  simpa [State.returnFromInterrupt] using s.ipop.2.dpop_fst (by simpa using h)

/-- A return from an interrupt changes pc, RS, the pointers and the request alone, whatever the pointers are. -/
theorem State.returnFromInterrupt_frame {e : Bool} (he : s.returnFromInterrupt.stackErr = e) :
    s.returnFromInterrupt =
      { s with pc := s.returnFromInterrupt.pc, rs := s.returnFromInterrupt.rs, isp := s.returnFromInterrupt.isp,
               dsp := s.returnFromInterrupt.dsp, stackErr := e } := by
  subst he
  simp only [State.returnFromInterrupt, State.ipop, State.dpop]
  split <;> split <;> rfl

end

/-- R202: RS written back with another C. -/
theorem getLsbD_withFlags_carry (rs : Byte) (c : Bool) (j : Nat) :
    (withFlags rs { flagsOf rs with carry := c }).getLsbD j = if j = 0 then c else rs.getLsbD j := by
  by_cases hj : j = 0
  · subst hj
    exact getLsbD_withFlags rs _ 0
  · have hrs := getLsbD_withFlags rs (flagsOf rs) j
    rw [withFlags_flagsOf, if_neg hj] at hrs
    rw [getLsbD_withFlags, if_neg hj]
    exact hrs.symm

/-- Settles O53: both instructions are `State.call` of their target, which pushes with room (`ipush_ok`) or at ISP = 7
(`ipush_full`) and then jumps (`call_ok`, `call_full`). -/
theorem callResults : Obligations.CallResults := by
  refine fun a s => ⟨encoded_FJ 36 (by decide) a fun w h => by simp only [decode, h], rfl, fun i target hi => ?_⟩
  have hx : exec i s = .next (s.call target) := by
    obtain h | h := hi <;> cases h <;> rfl
  refine ⟨fun hisp => ?_, fun hisp => ?_⟩
  · refine ⟨s.call target, hx, s.call_get target hisp, fun _ hk => s.call_other target hk,
      s.call_isp_val target hisp, ?_⟩
    rw [s.call_ok target hisp, s.ipush_ok _ hisp]
    rfl
  · refine ⟨s.call target, hx, (s.call_stackErr target).trans (by simp [hisp]), ?_,
      fun _ hk => s.call_other target hk, ?_⟩
    · rw [State.call_full target hisp, State.setPc_pc]
      exact ite_eq_or_eq _ _ _
    · rw [State.call_full target hisp, State.ipush_full _ hisp]
      rfl

/-- Settles O55: a pop above ISP = 0 (`ipop_ok`) and at it (`ipop_empty`) into pc, and for RTSC the flags written back
as they were, but for C (`getLsbD_withFlags_carry`). -/
theorem returnResults : Obligations.ReturnResults := by
  refine ⟨rfl, fun c => by cases c <;> rfl, fun s => ⟨fun hi => ?_, fun hi => ?_, fun c hi => ?_, fun c hi => ?_⟩⟩
  · refine ⟨s.ipop.2.setPc s.ipop.1, rfl, s.ipop_isp_val hi, s.ipop_fst hi, ?_⟩
    rw [s.ipop_ok hi]
    rfl
  · refine ⟨s.ipop.2.setPc s.ipop.1, rfl, ?_⟩
    rw [State.ipop_empty hi]
    rfl
  · refine ⟨(s.ipop.2.setPc s.ipop.1).setFlags { s.flags with carry := c }, rfl, s.ipop_isp_val hi, s.ipop_fst hi, ?_⟩
    rw [s.ipop_ok hi]
    exact ⟨getLsbD_withFlags_carry s.rs c, rfl⟩
  · refine ⟨(s.ipop.2.setPc s.ipop.1).setFlags { s.flags with carry := c }, rfl, ?_⟩
    rw [State.ipop_empty hi]
    exact ⟨getLsbD_withFlags_carry s.rs c, rfl⟩

/-- Settles O56: each pop that has something to give gives it whatever the other one does (`returnFromInterrupt_pc`,
`returnFromInterrupt_rs`), and the request is set exactly when one of them fails. -/
theorem rtiResult : Obligations.RtiResult := by
  refine ⟨rfl, fun s => ⟨fun hi hd => ?_, fun h => ?_⟩⟩
  · have herr : s.returnFromInterrupt.stackErr = s.stackErr := by simp [s.returnFromInterrupt_stackErr, hi, hd]
    exact ⟨s.returnFromInterrupt, rfl, s.returnFromInterrupt_isp_val hi, State.returnFromInterrupt_pc hi,
      s.returnFromInterrupt_dsp_val hd, State.returnFromInterrupt_rs hd, State.returnFromInterrupt_frame herr⟩
  · have herr : s.returnFromInterrupt.stackErr = true := by
      rw [s.returnFromInterrupt_stackErr]
      simpa using Or.inr h
    exact ⟨s.returnFromInterrupt, rfl, State.returnFromInterrupt_frame herr,
      fun hi => ⟨s.returnFromInterrupt_isp_val hi, State.returnFromInterrupt_pc hi⟩,
      fun hd => ⟨s.returnFromInterrupt_dsp_val hd, State.returnFromInterrupt_rs hd⟩⟩

/-! ## The end of a run (D24; log entry 12) -/

section
variable {s : State}

theorem RunState.ne_running_iff (r : RunState) : r ≠ .running ↔ r = .waiting ∨ r = .stopped := by
  cases r <;> decide

theorem State.ended_iff (s : State) : s.ended ↔
    (s.run = .running ∧ s.rs.getLsbD 3 = false ∧ s.fetchInstr = .next (.jmp s.pc)) ∨
    ((s.run = .waiting ∨ s.run = .stopped) ∧ s.stackErr = false ∧ ∀ b ∈ s.env, b.pending = []) := by
  rw [← RunState.ne_running_iff]
  rfl

theorem State.nothingEverPending.isPending_eq_false (h : s.nothingEverPending) (src : IntSource) :
    s.isPending src = false := by
  obtain ⟨herr, henv⟩ := h
  cases src with
  | stackError => exact herr
  | external n =>
    cases he : s.env with
    | nil => simp [State.isPending, he]
    | cons b bs =>
      have hb : b.pending = [] := henv b (he ▸ List.mem_cons_self)
      simp [State.isPending, he, hb]

theorem State.nothingEverPending.endBoundary (h : s.nothingEverPending) : s.endBoundary.nothingEverPending :=
  ⟨h.1, fun b hb => h.2 b (List.mem_of_mem_tail hb)⟩

/-- The end of a boundary moves neither pc nor what it fetches, and what never comes does not come later. -/
theorem State.ended.endBoundary (h : s.ended) : s.endBoundary.ended :=
  h.imp id fun ⟨hr, hn⟩ => ⟨hr, hn.endBoundary⟩

/-- With nothing accepted, a finished run jumps to where it is or idles: only the boundary passes. -/
theorem State.ended.step_eq (h : s.ended) (ha : s.accepted = none) : step s = .next s.endBoundary := by
  obtain ⟨hr, -, hf⟩ | ⟨hr, -⟩ := h
  · exact State.AboutToRun.step_eq ⟨ha, hr, hf⟩ rfl
  · obtain hw | hs := (RunState.ne_running_iff _).1 hr
    · simp only [step, ha, hw]
    · simp only [step, ha, hs]

/-- A running core accepts only what its input names. -/
theorem State.env_ne_nil_of_offered {src : IntSource} (h : s.offered = some src) : s.env ≠ [] := by
  intro he
  simp [State.offered, he] at h

/-- What a finished run accepts, it accepts at the JMP, where IE = 0 lets in only what it does not gate. -/
theorem State.ended.of_accepted {src : IntSource} (h : s.ended) (ha : s.accepted = some src) :
    s.run = .running ∧ src ∈ s.platform.ungated ∧ s.isPending src = true ∧ s.env ≠ [] := by
  obtain ⟨hp, hie⟩ := canEnter_of_accepted ha
  obtain ⟨hr, hie0, -⟩ | ⟨-, hn⟩ := h
  · have hng : s.rs.getLsbD 3 ≠ true := fun h1 => Bool.false_ne_true (hie0.symm.trans h1)
    obtain ⟨src', ha', -, ho⟩ | ⟨ha', -⟩ := s.accepted_cases
    · exact ⟨hr, hie.resolve_left hng, hp, State.env_ne_nil_of_offered (ho hr)⟩
    · exact absurd (ha.symm.trans ha') (by simp)
  · exact absurd ((hn.isPending_eq_false src).symm.trans hp) Bool.false_ne_true

theorem State.ended.accepted_eq_none (h : s.ended) (hu : s.platform.ungated = []) : s.accepted = none := by
  cases ha : s.accepted with
  | none => rfl
  | some src =>
    obtain ⟨-, hm, -⟩ := h.of_accepted ha
    exact absurd (hu ▸ hm) List.not_mem_nil

/-- Without a source that IE does not gate a finished run only lets boundaries pass. -/
theorem State.ended.run_eq (k : Nat) (h : s.ended) (hu : s.platform.ungated = []) :
    ∃ t : State, Sys2Proof.core.run k s = .next t ∧ t.ended ∧
      t = { s with tick := s.tick + k, env := s.env.drop k } := by
  induction k generalizing s with
  | zero => exact ⟨s, rfl, h, rfl⟩
  | succ k ih =>
    obtain ⟨t, hrun, ht, heq⟩ := ih h.endBoundary hu
    refine ⟨t, (run_succ_of_next k (h.step_eq (h.accepted_eq_none hu))).trans hrun, ht, heq.trans ?_⟩
    simp only [State.endBoundary, List.drop_tail, Nat.add_assoc, Nat.add_comm 1 k]

end

/-- Settles O28: a step of a finished run that accepts nothing lets the boundary pass (`State.ended.step_eq`), which
keeps it finished; over a run, by induction on the number of steps. -/
theorem endedRunStaysEnded : Obligations.EndedRunStaysEnded :=
  ⟨State.ended_iff, fun s h ha => ⟨s.endBoundary, h.step_eq ha, h.endBoundary, rfl⟩,
    fun _ _ h ha => h.of_accepted ha, fun _ k h hu => h.run_eq k hu⟩

end Sys2Proof.Machine
end

section
/-! PROOFS (46_special.md). Where pc moves, and when an address starts a handler; then the statements of this family. -/

namespace Sys2Proof.Machine

/-- `next` (R10) as a number; from 1023 it goes to 0 (D8; log entry 19). -/
theorem State.advance_pc_toNat (s : State) : s.advance.pc.toNat = (s.pc.toNat + 1) % 1024 :=
  BitVec.toNat_add s.pc 1

/-- The addresses at which RESET leaves the pointers open (R288; log entry 15). -/
theorem State.atHandlerStart_iff (s : State) :
    s.atHandlerStart = true ↔ s.pc ∈ s.handlers ∨ ∃ v ∈ s.platform.vectors, v.2 = s.pc := by
  simp only [State.atHandlerStart, Bool.or_eq_true, List.contains_iff_mem, List.any_eq_true, beq_iff_eq]

/-- Settles O57: NOP is `State.advance`. -/
theorem nopResult : Obligations.NopResult := ⟨rfl, fun s => ⟨s.advance, rfl, s.advance_pc_toNat, rfl⟩⟩

/-- Settles O58: both instructions write RS with IE set (`getLsbD_withIe`) and move pc; they differ in the run state
alone. -/
theorem waitStopResult : Obligations.WaitStopResult := by
  refine ⟨rfl, rfl, fun s i r hi => ?_⟩
  have hx : exec i s = .next { (s.setRs (withIe s.rs true)).advance with run := r } := by
    obtain h | h := hi <;> cases h <;> rfl
  exact ⟨_, hx, getLsbD_withIe s.rs true, s.advance_pc_toNat, rfl⟩

/-- Settles O59: the premise of each clause says whether pc starts a handler (`State.atHandlerStart_iff`), which is
what decides the pointers. -/
theorem resetInstructionResult : Obligations.ResetInstructionResult := by
  refine ⟨rfl, fun s => ⟨fun hh hv => ?_, fun _ => ⟨_, rfl, rfl⟩⟩⟩
  have hstart : ¬ s.atHandlerStart = true := fun h =>
    (s.atHandlerStart_iff.1 h).elim hh fun ⟨v, hmem, hpc⟩ => hv v hmem hpc
  simp only [exec, execReset, if_neg hstart, State.advance]

/-- Settles O60: a pop of the command stack above ISP = 0 (`ipop_ok`) and at it (`ipop_empty`), then pc. -/
theorem skspResult : Obligations.SkspResult := by
  refine ⟨rfl, fun s => ⟨fun hi => ?_, fun hi => ?_⟩⟩
  · refine ⟨s.ipop.2.advance, rfl, s.ipop_isp_val hi, ?_⟩
    rw [s.ipop_ok hi]
    rfl
  · refine ⟨s.ipop.2.advance, rfl, ?_⟩
    rw [State.ipop_empty hi]
    rfl

end Sys2Proof.Machine
end

section
/-! PROOFS (60_exceptions.md). The instruction a step fetches, which source a boundary accepts, what interrupt entry
saves and what RTI restores; then the statements of this family. -/

namespace Sys2Proof.Machine

/-! ## The step of a running core (R260) -/

theorem fetchInstr_of_decode {s : State} {w : Word} {i : Instr} (hp : s.pc.toNat < s.platform.pmemWords)
    (hm : Memory.read s.pmem s.pc.toNat = some w) (hd : decode w = .ok i) : s.fetchInstr = .next i := by
  simp [State.fetchInstr, Nat.not_le.2 hp, hm, hd]

/-- Settles O7: the fetch gives i, and `retireResult` adds the boundary's bookkeeping to a next state. -/
theorem stepRunsTheDecodedInstruction : Obligations.StepRunsTheDecodedInstruction := by
  intro s w i ha hr hp hm hd
  rw [step_of_fetch ha hr (fetchInstr_of_decode hp hm hd)]
  cases exec i s <;> rfl

/-! ## Which source is accepted (R244, R259; log entry 12) -/

section
variable {s : State} {src : IntSource}

/-- An external source is pending iff the coming boundary's entry lists it (R34). -/
theorem State.isPending_external_iff {n : Nat} :
    s.isPending (.external n) = true ↔ ∃ b bs, s.env = b :: bs ∧ n ∈ b.pending := by
  cases he : s.env with
  | nil => simp [State.isPending, he]
  | cons b bs => simp [State.isPending, he]

/-- The environment's offer is the source its entry names, where that source can enter. -/
theorem State.offered_iff :
    s.offered = some src ↔ ∃ b bs, s.env = b :: bs ∧ b.accept = some src ∧ s.CanEnter src := by
  have hcan : s.CanEnter src ↔ s.isPending src = true ∧ s.isEnabled src = true :=
    canEnter_iff_mem_candidates.trans State.mem_candidates
  cases he : s.env with
  | nil => simp [State.offered, he]
  | cons b bs =>
    cases hb : b.accept with
    | none => simp [State.offered, he, hb]
    | some named =>
      by_cases hs : named = src
      · simp [State.offered, he, hb, hs, hcan]
      · simp [State.offered, he, hb, hs]

theorem State.accepted_of_offered (h : s.offered = some src) : s.accepted = some src := by
  simp [State.accepted, h]

theorem State.offered_of_accepted (hr : s.run = .running) (ha : s.accepted = some src) : s.offered = some src := by
  obtain ⟨src', ha', -, ho⟩ | ⟨ha', -⟩ := s.accepted_cases
  · cases ha.symm.trans ha'
    exact ho hr
  · exact absurd (ha.symm.trans ha') (by simp)

/-- A core that is not running accepts nothing exactly when no source can enter (R259). -/
theorem State.accepted_eq_none_iff (hr : s.run ≠ .running) : s.accepted = none ↔ ∀ src, ¬ s.CanEnter src := by
  refine ⟨fun ha => not_canEnter_of_accepted_none ha hr, fun h => ?_⟩
  cases ha : s.accepted with
  | none => rfl
  | some src => exact absurd (canEnter_of_accepted ha) (h src)

end

/-- Settles O8: what is accepted can enter (`canEnter_of_accepted`); the environment's offer (`State.offered_iff`) is
accepted, and by a running core nothing else; any other core accepts nothing iff no source can enter
(`State.accepted_eq_none_iff`). -/
theorem acceptedIffPendingAndEnabled : Obligations.AcceptedIffPendingAndEnabled := by
  refine ⟨fun _ _ => canEnter_of_accepted, fun s b bs src he hb hc => ?_, fun s src hr ha => ?_,
    fun _ => State.accepted_eq_none_iff, fun _ => rfl, fun _ _ => State.isPending_external_iff⟩
  · exact State.accepted_of_offered (State.offered_iff.2 ⟨b, bs, he, hb, hc⟩)
  · obtain ⟨b, bs, he, hb, -⟩ := State.offered_iff.1 (State.offered_of_accepted hr ha)
    exact ⟨b, bs, he, hb⟩

/-! ## Interrupt entry (R244, R247, R252) -/

section
variable (s : State) (src : IntSource)

/-- Entry saves RS[5:0] as they are (R28; D9). -/
theorem State.getLsbD_savedRs {j : Nat} (hj : j < 6) : s.savedRs.getLsbD j = s.rs.getLsbD j := by
  rw [State.savedRs, BitVec.getLsbD_append, if_pos hj, BitVec.getLsbD_extractLsb', decide_eq_true hj, Bool.true_and,
    Nat.zero_add]

/-- The first entry of the platform's list that names the source gives its vector. -/
theorem State.vector_of_first {a : PAddr} {before after : List (IntSource × PAddr)}
    (hv : s.platform.vectors = before ++ (src, a) :: after) (hb : ∀ v ∈ before, v.1 ≠ src) : s.vector src = a := by
  have hnone : before.lookup src = none :=
    List.lookup_eq_none_iff.2 fun v hm => by simpa using (hb v hm).symm
  simp [State.vector, hv, List.lookup_append, hnone]

/-- All that entry with room on both stacks does (R244, D14). -/
theorem State.enterInterrupt_eq (hi : s.isp ≠ 7) (hd : s.dsp ≠ 15) :
    s.enterInterrupt src =
      { s with pc := s.vector src, rs := withIe s.rs false, run := .running
               istack := s.istack.set s.isp.val s.pc s.isp.isLt, isp := s.isp + 1
               dstack := s.dstack.set s.dsp.val s.savedRs s.dsp.isLt, dsp := s.dsp + 1
               handlers := insertOnce (s.vector src) s.handlers } := by
  rw [s.enterInterrupt_ok src hi hd, State.dpush_ok _ _ (by rwa [State.ipush_dsp]), s.ipush_ok s.pc hi]
  rfl

/-- Entry latches the request exactly when a stack is full (R247; log entry 11). -/
theorem State.enterInterrupt_stackErr :
    (s.enterInterrupt src).stackErr = (s.stackErr || decide (s.isp = 7 ∨ s.dsp = 15)) := by
  by_cases hfull : s.isp = 7 ∨ s.dsp = 15
  · rw [State.enterInterrupt, if_pos hfull, decide_eq_true hfull, Bool.or_true]
    cases src <;> rfl
  · obtain ⟨hi, hd⟩ := not_or.1 hfull
    rw [s.enterInterrupt_eq src hi hd, decide_eq_false hfull, Bool.or_false]

theorem State.enterInterrupt_isp_val (hi : s.isp ≠ 7) (hd : s.dsp ≠ 15) :
    (s.enterInterrupt src).isp.val = s.isp.val + 1 := by
  simpa [s.enterInterrupt_ok src hi hd, State.toHandler] using s.ipush_isp_val s.pc hi

theorem State.enterInterrupt_dsp_val (hi : s.isp ≠ 7) (hd : s.dsp ≠ 15) :
    (s.enterInterrupt src).dsp.val = s.dsp.val + 1 := by
  simpa [s.enterInterrupt_ok src hi hd, State.toHandler] using
    (s.ipush s.pc).dpush_dsp_val s.savedRs (by rwa [State.ipush_dsp])

end

/-- At the pointers of s the stacks of u hold what an entry in s saves: its pc, and RS but for bits 7:6. -/
structure SavedIn (s u : State) : Prop where
  pc : u.istack.get s.isp = s.pc
  rs : ∀ j, j < 6 → (u.dstack.get s.dsp).getLsbD j = s.rs.getLsbD j

theorem enterInterrupt_savedIn {s : State} (src : IntSource) (hi : s.isp ≠ 7) (hd : s.dsp ≠ 15) :
    SavedIn s (s.enterInterrupt src) := by
  rw [s.enterInterrupt_eq src hi hd]
  refine ⟨(get_set s.istack s.isp s.isp s.pc).trans (if_pos rfl), fun j hj => ?_⟩
  rw [get_set, if_pos rfl, s.getLsbD_savedRs hj]

/-- Settles O9: the step of an accepted source is its entry (`step_of_accepted`), with room on both stacks
(`State.enterInterrupt_eq`) or without (`State.enterInterrupt_stackErr`). -/
theorem interruptEntry : Obligations.InterruptEntry := by
  refine ⟨fun s src ha => ⟨fun hi hd => ?_, fun hfull => ?_⟩, fun s src _ _ _ => s.vector_of_first src⟩
  · obtain ⟨hpc, hrs⟩ := enterInterrupt_savedIn src hi hd
    obtain ⟨hiother, hdother⟩ := s.enterInterrupt_other src
    refine ⟨_, step_of_accepted ha, hpc, hiother, s.enterInterrupt_isp_val src hi hd, hrs, hdother,
      s.enterInterrupt_dsp_val src hi hd, ?_⟩
    rw [s.enterInterrupt_eq src hi hd]
    exact ⟨getLsbD_withIe s.rs false, rfl, rfl, fun _ => mem_insertOnce, rfl⟩
  · refine ⟨_, step_of_accepted ha, (s.enterInterrupt_stackErr src).trans ?_⟩
    rw [decide_eq_true hfull, Bool.or_true]

/-! ## RTI after an entry (R248, R251) -/

section
variable {s t u : State}

theorem State.returnFromInterrupt_of_above {i : Fin 8} {d : Fin 16} (hi : s.isp.val = i.val + 1)
    (hd : s.dsp.val = d.val + 1) :
    s.returnFromInterrupt = { s with pc := s.istack.get i, rs := s.dstack.get d, isp := i, dsp := d } := by
  have hd' : s.ipop.2.dsp.val = d.val + 1 := by rwa [State.ipop_dsp]
  rw [State.returnFromInterrupt, State.dpop_of_above hd', State.ipop_of_above hi]
  rfl

theorem SavedIn.endBoundary (h : SavedIn s u) : SavedIn s u.endBoundary := ⟨h.pc, h.rs⟩

/-- Steps from states with both pointers above those of s keep what the entry saved. -/
theorem SavedIn.run {k : Nat} (h : SavedIn s t)
    (hrun : StepsWhile (fun x => s.isp.val < x.isp.val ∧ s.dsp.val < x.dsp.val) k t u) : SavedIn s u := by
  have hi : u.istack.get s.isp = t.istack.get s.isp :=
    hrun.keeps (fun x => x.istack.get s.isp) fun _ _ ⟨hlt, _⟩ hx => (step_other_cells hx).1 s.isp (Fin.ne_of_lt hlt)
  have hd : u.dstack.get s.dsp = t.dstack.get s.dsp :=
    hrun.keeps (fun x => x.dstack.get s.dsp) fun _ _ ⟨_, hlt⟩ hx => (step_other_cells hx).2 s.dsp (Fin.ne_of_lt hlt)
  exact ⟨hi.trans h.pc, hd.symm ▸ h.rs⟩

/-- RTI with both pointers one above those of s resumes s. -/
theorem SavedIn.resumes (h : SavedIn s u) (hi : u.isp.val = s.isp.val + 1) (hd : u.dsp.val = s.dsp.val + 1) :
    u.returnFromInterrupt.pc = s.pc ∧ u.returnFromInterrupt.isp = s.isp ∧ u.returnFromInterrupt.dsp = s.dsp ∧
      u.returnFromInterrupt.stackErr = u.stackErr ∧
      ∀ j, j < 6 → u.returnFromInterrupt.rs.getLsbD j = s.rs.getLsbD j := by
  rw [State.returnFromInterrupt_of_above hi hd]
  exact ⟨h.pc, rfl, rfl, rfl, h.rs⟩

end

/-- Settles O11: entry saves pc and RS (`enterInterrupt_savedIn`), a run above the old pointers keeps both
(`SavedIn.run`), and RTI gives them back (`SavedIn.resumes`). -/
theorem entryThenRtiResumes : Obligations.EntryThenRtiResumes := by
  intro s src ha hi hd
  have hsaved : SavedIn s (s.enterInterrupt src).endBoundary := (enterInterrupt_savedIn src hi hd).endBoundary
  refine ⟨?_, fun t u k hst hrun hu hui hud => ?_⟩
  · obtain ⟨hpc, hisp, hdsp, hkeeps, hrs⟩ :=
      hsaved.resumes (s.enterInterrupt_isp_val src hi hd) (s.enterInterrupt_dsp_val src hi hd)
    have herr : (s.enterInterrupt src).stackErr = s.stackErr := by rw [s.enterInterrupt_eq src hi hd]
    exact ⟨_, _, step_of_accepted ha, rfl, hpc, hisp, hdsp, hkeeps.trans herr, hrs⟩
  · cases (step_of_accepted ha).symm.trans hst
    obtain ⟨hpc, hisp, hdsp, -, hrs⟩ := (hsaved.run hrun).resumes hui hud
    exact ⟨_, hu.step_eq rfl, hpc, hisp, hdsp, hrs⟩

end Sys2Proof.Machine
end

section
/-! PROOFS (30_encoding.md section 4: the round trip). What an instruction's operands spell in the low bits of its word,
against what the decoder reads them from; then the statements of the encoder. -/

namespace Sys2Proof

open Machine

/-! ## The low bits of a word -/

/-- The number that the instruction's operands spell in the bits its row leaves to them. -/
@[simp] def Instr.operandField : Instr → Nat
  | .mov d s | .cmp d s | .sub d s | .add d s | .and d s | .or d s | .xor d s => s.bits.toNat * 32 + d.bits.toNat
  | .movl d k | .cmpl d k => k.toNat * 32 + d.bits.toNat
  | .addl d k | .subl d k => k.toNat * 32 + d.bits.toNat
  | .bic d p t | .bis d p t | .btg d p t | .btt d p t => p.bit * 512 + t.toNat * 32 + d.bits.toNat
  | .swap d | .neg d | .not d | .shl d | .shr d | .shra d | .rlc d | .rrc d | .adc d | .sbc d => d.bits.toNat
  | .ldr n k => k.toNat * 8 + n.val
  | .mtpr n o | .mfpr o n => n.val * 32 + o.bits.toNat
  | .push n | .pop n => n.val
  | .sst m | .cst m => m.toNat
  | .jmp a | .jsr a | .jnz a | .jz a | .jns a | .js a | .jnc a | .jc a => a.toNat
  | .rtsc c => c.toNat
  | .tof | .tdc | .ijmp | .ijsr | .rts | .rti | .nop | .wait | .stop | .reset | .sksp => 0

theorem encode_eq_row_add_field (i : Instr) : encode i = BitVec.ofNat 16 (i.row.1.toNat + i.operandField) := by
  cases i <;> simp [encode, encodeF1, encodeF2, encodeFL, encodeFL4, encodeLow, Instr.row, Nat.add_assoc]

/-- The answer's operands are those that the low bits of the word n spell. -/
@[simp] def ReadsField (n : Nat) : Except DecodeReject Instr → Prop
  | .ok i => i.operandField = n % 2 ^ i.operandBits
  | .error _ => True

section
variable (w : Word)

@[simp] theorem toNat_bits_lowOperand : (lowOperand w).bits.toNat = w.toNat % 32 := by
  simp [lowOperand]

@[simp] theorem toNat_bits_srcOperand : (srcOperand w).bits.toNat = w.toNat / 32 % 32 := by
  simp [srcOperand, Nat.shiftRight_eq_div_pow]

@[simp] theorem bit_placeField : (placeField w).bit = w.toNat / 512 % 2 := by
  have hbit : w.getLsbD 9 = decide (w.toNat / 512 % 2 = 1) := by simpa using bit_eq w.toNat 9 (by decide)
  rw [placeField, hbit]
  obtain h | h := Nat.mod_two_eq_zero_or_one (w.toNat / 512) <;> simp [h, Place.ofBit, Place.bit]

/-! Each layer of the decoder reads every operand from the place that its instruction's word keeps for it. -/

theorem decodeControl_readsField : ReadsField w.toNat (decodeControl w) := by
  have hk := toNat_extractLsb' w 0 5
  unfold decodeControl
  split
  case h_12 | h_13 => simp; omega -- RTSC: bit 0 of the number branched on
  case h_17 => split <;> simp -- PUSH and POP
  all_goals simp [Nat.mod_one]

theorem decodeOne_readsField : ReadsField w.toNat (decodeOne w) := by
  unfold decodeOne
  split
  case h_1 => exact decodeControl_readsField w
  case h_12 | h_13 => split <;> simp -- SST and CST
  all_goals simp

theorem decodeShort_readsField : ReadsField w.toNat (decodeShort w) := by
  unfold decodeShort
  split
  case h_3 => exact decodeOne_readsField w
  all_goals simp; omega

theorem decode_readsField : ReadsField w.toNat (decode w) := by
  unfold decode
  split
  case h_1 => exact decodeShort_readsField w
  case h_25 => -- MOVL, CMPL and the reserved words
    split
    · simp; omega
    · split <;> simp; omega
  all_goals simp
  all_goals omega

end

/-! ## The round trip -/

/-- An instruction's word is the one that its own statement spells; that clause is about no state, so any state gives
it. -/
theorem decode_encode (i : Instr) : decode (encode i) = .ok i := by
  have s : State := .reset
  cases i with
  | mov d v => exact (movResult d v s).1
  | cmp d v => exact (cmpResult d v s).1
  | add d v => exact (addResult d v s).1
  | sub d v => exact (subResult d v s).1
  | and d v => obtain ⟨hand, -⟩ := andOrXorResult d v s; exact hand
  | or d v => obtain ⟨-, hor, -⟩ := andOrXorResult d v s; exact hor
  | xor d v => obtain ⟨-, -, hxor, -⟩ := andOrXorResult d v s; exact hxor
  | movl d k => exact (movlResult d k s).1
  | cmpl d k => exact (cmplBttResults.1 d k s).1
  | addl d k => exact (addlResult d k s).1
  | subl d k => exact (sublResult d k s).1
  | bic d p t => obtain ⟨hbic, -⟩ := bitLiteralResults d p t s; exact hbic
  | bis d p t => obtain ⟨-, hbis, -⟩ := bitLiteralResults d p t s; exact hbis
  | btg d p t => obtain ⟨-, -, hbtg, -⟩ := bitLiteralResults d p t s; exact hbtg
  | btt d p t => exact (cmplBttResults.2 d p t s).1
  | swap d => obtain ⟨hswap, -⟩ := swapNotResult d s; exact hswap
  | neg d => exact (negResult d s).1
  | not d => obtain ⟨-, hnot, -⟩ := swapNotResult d s; exact hnot
  | shl d => obtain ⟨hshl, -⟩ := shiftLeftResults d s; exact hshl
  | shr d => obtain ⟨hshr, -⟩ := shiftRightResults d s; exact hshr
  | shra d => obtain ⟨-, hshra, -⟩ := shiftRightResults d s; exact hshra
  | rlc d => obtain ⟨-, hrlc, -⟩ := shiftLeftResults d s; exact hrlc
  | rrc d => obtain ⟨-, -, hrrc, -⟩ := shiftRightResults d s; exact hrrc
  | adc d => obtain ⟨hadc, -⟩ := adcSbcResult d s; exact hadc
  | sbc d => obtain ⟨-, hsbc, -⟩ := adcSbcResult d s; exact hsbc
  | ldr n k => exact encoded_ldr n k
  | mtpr n o => exact (mtprResult n o s).1
  | mfpr d n => exact (mfprResult d n s).1
  | push n => exact encoded_push n
  | pop n => exact encoded_pop n
  | sst m => obtain ⟨hsst, -⟩ := sstCstResult m s; exact hsst
  | cst m => obtain ⟨-, hcst, -⟩ := sstCstResult m s; exact hcst
  | jmp a => obtain ⟨hjmp, -⟩ := jumpResults a s; exact hjmp
  | jsr a => exact (callResults a s).1
  | jz a => obtain ⟨-, hjz, -⟩ := jumpResults a s; exact hjz
  | jnz a => obtain ⟨-, -, hjnz, -⟩ := jumpResults a s; exact hjnz
  | jns a => obtain ⟨-, -, -, hjns, -⟩ := jumpResults a s; exact hjns
  | js a => obtain ⟨-, -, -, -, hjs, -⟩ := jumpResults a s; exact hjs
  | jnc a => obtain ⟨-, -, -, -, -, hjnc, -⟩ := jumpResults a s; exact hjnc
  | jc a => obtain ⟨-, -, -, -, -, -, hjc, -⟩ := jumpResults a s; exact hjc
  | rtsc c => cases c <;> rfl
  | tof | tdc | ijmp | ijsr | rts | rti | nop | wait | stop | reset | sksp => rfl

theorem encode_decode {w : Word} {i : Instr} (h : decode w = .ok i) : encode i = w := by
  have hrow := decode_spells w
  have hfield := decode_readsField w
  rw [h, Spells, InRow] at hrow
  rw [h, ReadsField] at hfield
  rw [encode_eq_row_add_field, ← hrow, hfield, Nat.div_add_mod', BitVec.ofNat_toNat, BitVec.setWidth_eq]

/-- Settles O1: `decode_encode`, by the words of the families. -/
theorem decodeOfEncode : Obligations.DecodeOfEncode := decode_encode

/-- Settles O2: the bits above the operands are the row's (`decode_spells`), those below are what the operands spell
(`decode_readsField`), and `encode` adds the two. -/
theorem encodeOfDecode : Obligations.EncodeOfDecode := fun _ _ => encode_decode

/-- Settles O5: the decoder evaluated at each of the ten words. -/
theorem exampleWordsDecode : Obligations.ExampleWordsDecode :=
  ⟨rfl, rfl, rfl, rfl, rfl, rfl, rfl, rfl, rfl, rfl⟩

end Sys2Proof
end

section
/-! PROOFS (60_exceptions.md section 3: entry at a full stack). All that an entry does when a stack is full, for the
stack-error interrupt and for any other source; then the statement about both. -/

namespace Sys2Proof.Machine

section
variable (s : State) (h : s.isp = 7 ∨ s.dsp = 15)
include h

/-- The stack-error interrupt reaches its handler, with both pushes open (log entries 9 and 11). -/
theorem State.enterInterrupt_stackError_full :
    s.enterInterrupt .stackError =
      { s with pc := s.vector .stackError, rs := withIe s.rs false, run := .running, stackErr := true
               istack := s.istack.set s.isp.val s.free.retCell s.isp.isLt, isp := s.free.isp
               dstack := s.dstack.set s.dsp.val s.free.dataCell s.dsp.isLt, dsp := s.free.dsp
               handlers := insertOnce (s.vector .stackError) s.handlers } :=
  if_pos h

/-- Any other source leaves both pushes open and goes no further (log entry 11). -/
theorem State.enterInterrupt_external_full (n : Nat) :
    s.enterInterrupt (.external n) =
      { s with stackErr := true
               istack := s.istack.set s.isp.val s.free.retCell s.isp.isLt, isp := s.free.isp
               dstack := s.dstack.set s.dsp.val s.free.dataCell s.dsp.isLt, dsp := s.free.dsp } :=
  if_pos h

end

/-- Settles O10: the step is the entry (`step_of_accepted`), which writes no stack cell but those at the old pointers
(`State.enterInterrupt_other`); what else it does is in the equation of each kind of source. -/
theorem entryAtAFullStack : Obligations.EntryAtAFullStack := by
  refine ⟨fun s ha hfull => ?_, fun s n ha hfull => ?_⟩
  · obtain ⟨hiother, hdother⟩ := s.enterInterrupt_other .stackError
    refine ⟨(s.enterInterrupt .stackError).endBoundary, step_of_accepted ha, ?_⟩
    rw [s.enterInterrupt_stackError_full hfull] at hiother hdother ⊢
    exact ⟨rfl, rfl, rfl, getLsbD_withIe s.rs false, hiother, hdother, fun _ => mem_insertOnce, rfl⟩
  · obtain ⟨hiother, hdother⟩ := s.enterInterrupt_other (.external n)
    refine ⟨(s.enterInterrupt (.external n)).endBoundary, step_of_accepted ha, hiother, hdother, ?_⟩
    rw [s.enterInterrupt_external_full hfull]
    rfl

end Sys2Proof.Machine
end
